-- ==== Sys2Proof/Word.lean ====
section
/-! DEFINITION. The word types of the block: a host register or command word is 32 bits (00_scope R10, 30_encoding R79), a
channel, a bus byte and RXDATA are 8 bits (30_encoding R86, 10_state R38). -/
namespace Sys2Proof

/-- A host register value or a command word. -/
abbrev Word := BitVec 32

/-- A colour channel, a byte on the bus, a device register. -/
abbrev Byte := BitVec 8

/-- One pixel, or the shift register SR: 24 bits, the first bit sent at the top (42_pixel_streamer R120). -/
abbrev Pixel := BitVec 24

end Sys2Proof
end

