-- ==== Sys2Proof/Config.lean ====
section
/-! DEFINITION. The constants the source fixes (00_scope R9), the parameters it leaves open (R8) and the model's free values.
An `opaque` constant has no body: nothing in Lean can evaluate it, so a claim holds whatever it is (logs 1, 3, 6, 8, 9, 10, 24). -/
namespace Sys2Proof

/-- BIT_PERIOD: cycles of one bit (00_scope R9). -/
def bitPeriod : Nat := 20
/-- PIXEL_BITS (00_scope R9). -/
def pixelBits : Nat := 24
/-- CELLS_PER_FRAME (00_scope R9). -/
def cellsPerFrame : Nat := 64
/-- BITS_PER_FRAME (00_scope R9). -/
def bitsPerFrame : Nat := 1536
/-- DEV_ADDR, the touch controller's 7-bit address (00_scope R9). -/
def devAddr : BitVec 7 := 0x28
/-- MAP_REG (00_scope R9). -/
def mapReg : Byte := 0x72
/-- MAP_VAL (00_scope R9). -/
def mapVal : Byte := 0xFF
/-- MAP_REPEAT (00_scope R9). -/
def mapRepeat : Nat := 4
/-- READ_REPEAT (00_scope R9). -/
def readRepeat : Nat := 2

/-- The implementation parameters of 00_scope R8. -/
structure Params where
  /-- F_CLK in Hz; no rule of the block uses it. -/
  fClk : Nat
  /-- T0H, high cycles of a "0" pulse. -/
  t0h : Nat
  /-- T1H, high cycles of a "1" pulse. -/
  t1h : Nat
  /-- SHORT_CYCLES. -/
  shortCycles : Nat
  /-- LONG_CYCLES. -/
  longCycles : Nat
  /-- LATCH_CYCLES. -/
  latchCycles : Nat
  /-- GAP_TOL. -/
  gapTol : Nat
  /-- BASE, the host address of the register window. -/
  base : Nat
  deriving DecidableEq, Repr

/-- T0L = BIT_PERIOD − T0H (00_scope R8, R11). -/
def Params.t0l (p : Params) : Nat := bitPeriod - p.t0h
/-- T1L = BIT_PERIOD − T1H (00_scope R8, R11). -/
def Params.t1l (p : Params) : Nat := bitPeriod - p.t1h

/-- The constraints of 00_scope R8, the only facts a proof may assume of the parameters. BASE is a multiple of 0x20
(20_memory R60). -/
abbrev Params.Wf (p : Params) : Prop :=
  0 < p.fClk ∧ 1 ≤ p.t0h ∧ p.t0h < p.t0l ∧ p.t0h < p.t1h ∧ p.t1l < p.t1h ∧ 1 ≤ p.t1l ∧
  1 ≤ p.shortCycles ∧ 1 ≤ p.longCycles ∧ bitPeriod + p.gapTol < p.latchCycles ∧ p.base % 0x20 = 0

/-! The open parts. Each parameter is built from one, so that exactly the constraints of R8 hold of it:
T0H is any of 1..9, T1H any of 11..19 (the reading 00_scope R8 derives). -/

/-- F_CLK less 1. -/
opaque Config.fClkLess1 : Nat
/-- T0H less 1. -/
opaque Config.t0hLess1 : Fin 9
/-- T1H less 11. -/
opaque Config.t1hLess11 : Fin 9
/-- SHORT_CYCLES less 1. -/
opaque Config.shortLess1 : Nat
/-- LONG_CYCLES less 1. -/
opaque Config.longLess1 : Nat
/-- GAP_TOL. -/
opaque Config.gapTol : Nat
/-- LATCH_CYCLES less BIT_PERIOD + GAP_TOL + 1. -/
opaque Config.latchExtra : Nat
/-- BASE divided by 0x20. -/
opaque Config.baseBlock : Nat
/-- SCL_PERIOD(BITRATE): any function; no rule depends on it (00_scope R8, 10_state R39). -/
opaque Config.sclPeriod : BitVec 16 → Nat

/-- The parameters of this implementation (00_scope R8; log 3). -/
def Config.params : Params where
  fClk := Config.fClkLess1 + 1
  t0h := Config.t0hLess1.val + 1
  t1h := Config.t1hLess11.val + 11
  shortCycles := Config.shortLess1 + 1
  longCycles := Config.longLess1 + 1
  latchCycles := bitPeriod + Config.gapTol + 1 + Config.latchExtra
  gapTol := Config.gapTol
  base := Config.baseBlock * 0x20

/-! The free values: draws the spec leaves unconstrained. The argument is the model's cycle counter, so that every cycle has
draws of its own. -/

/-- `e.done` of a cycle beyond the script of the environment (10_state R47; log 1). -/
opaque Config.envDone : Nat → Bool
/-- `e.ack` of such a cycle (10_state R47; log 1). -/
opaque Config.envAck : Nat → Bool
/-- `e.rx` of such a cycle (10_state R47; log 1). -/
opaque Config.envRx : Nat → Byte
/-- Whether the touch controller's register takes a write that ends in such a cycle (60_exceptions R180; log 10). -/
opaque Config.envTake : Nat → Bool
/-- TxNext outside its table (43_i2c_primitives R144): some state, by the code of the state before (log 6). -/
opaque Config.txNextFree : Nat → Fin 10
/-- A bit the LED chain receives while BAD (60_exceptions R176; log 8). -/
opaque Config.chainBit : Nat → Bool
/-- Whether the LED chain takes a pulse that comes after a reset and a short idle as 70_reset_and_hazards R191 says; otherwise its
state is any value (60_exceptions R176, 93_implementation_defined; log 24). -/
opaque Config.chainGoesOn : Nat → Bool
/-- The colour a cell shows after a draw: by the draw's serial number and the cell (60_exceptions R177; log 9). -/
opaque Config.cellDraw : Nat → Nat → Pixel
/-- A touch-controller register at power-up (60_exceptions R179; log 10). -/
opaque Config.regPowerUp : Nat → Byte

end Sys2Proof
end

