-- ==== Sys2Proof/Machine/State.lean ====
section
/-! DEFINITION. The state of the block, of the two devices at its pins and of the agents that drive its inputs, as plain data;
the reasons a step can stop; and State.reset. Every field is listed in INVENTORY.md under "State". -/
namespace Sys2Proof.Machine

/-! ## The block's enumerations -/

/-- MODE, the active unit (10_state R41). -/
inductive Mode where
  /-- No command is active. -/
  | idle
  /-- EMIT0, EMIT1 or WCOLOR. -/
  | led
  /-- DLYS, DLYL, DLYN, or a one-cycle rejected command. -/
  | dly
  /-- One of the seven I2C commands. -/
  | i2c
  deriving DecidableEq, Repr

/-- STATUS.I2C_STATE: the last completed phase (10_state R35). -/
inductive I2cState where
  | idle | startSent | addrSent | regSent | dataSent | stopSent
  | restartSent | addrSentRead | dataReceived | ackSent
  deriving DecidableEq, Repr

/-- The codes of 10_state R35; 10 to 15 are never held. -/
def I2cState.code : I2cState → BitVec 4
  | .idle => 0
  | .startSent => 1
  | .addrSent => 2
  | .regSent => 3
  | .dataSent => 4
  | .stopSent => 5
  | .restartSent => 6
  | .addrSentRead => 7
  | .dataReceived => 8
  | .ackSent => 9

/-- STATUS.ERRCODE (60_exceptions R161). -/
inductive ErrCode where
  /-- No error since reset. -/
  | none
  /-- Overrun. -/
  | ovr
  /-- Illegal command word. -/
  | ill
  /-- I2C command while the master is disabled. -/
  | dis
  /-- I2C command the state machine does not allow. -/
  | seq
  deriving DecidableEq, Repr

/-- The codes of 60_exceptions R161; 5 to 7 are never written. -/
def ErrCode.code : ErrCode → BitVec 3
  | .none => 0
  | .ovr => 1
  | .ill => 2
  | .dis => 3
  | .seq => 4

/-- A phase of an I2C command (43_i2c_primitives R129, R131). -/
inductive Phase where
  | start
  | restart
  | tx (b : Byte)
  | rxb
  | nak
  | stop
  deriving DecidableEq, Repr

/-- An event of the bus trace (43_i2c_primitives R129). An acknowledge bit is true for 1, not acknowledged. -/
inductive BusEvent where
  /-- `S`, a start condition. -/
  | s
  /-- `Sr`, a repeated start; the bus is not released. -/
  | sr
  /-- `P`, a stop condition. -/
  | p
  /-- `W(b, k)`, byte b sent, acknowledge bit k. -/
  | w (b : Byte) (k : Bool)
  /-- `R(b)`, byte b received. -/
  | r (b : Byte)
  /-- `N`, the master's not-acknowledge. -/
  | n
  /-- `X`, the bus released with no STOP. -/
  | x
  deriving DecidableEq, Repr

/-- SCL and SDA at phase level: released, carrying a phase, or held between phases of a transaction (10_state R45, R54, R56;
70_reset_and_hazards R203; log 20). -/
inductive BusLines where
  | released
  | phase (ph : Phase)
  | held
  deriving DecidableEq, Repr

/-! ## The devices at the pins -/

/-- The colour a cell of the LED chain shows: a pixel it was sent, or a draw (60_exceptions R177), named by its serial number
and its cell and valued by `Config.cellDraw` (log 9). -/
inductive Cell where
  | shown (c : Pixel)
  | drawn (serial k : Nat)
  deriving DecidableEq, Repr

/-- The LED chain on DOUT (60_exceptions R176, R177; 70_reset_and_hazards R191). -/
structure LedChain where
  /-- Length of the high run of the pulse not yet closed; 0 where no pulse is open. -/
  high : Nat
  /-- Length of the low run so far; since the last reset, where no pulse is open. -/
  low : Nat
  /-- A reset cut the high time of the open pulse short (70_reset_and_hazards R191; log 22). -/
  cut : Bool
  /-- PENDING: the bits since the last latch, oldest first. -/
  pending : List Bool
  /-- BAD. -/
  bad : Bool
  /-- A reset has come, and since then no pulse and no low run of LATCH_CYCLES (60_exceptions R176; log 24). -/
  afterReset : Bool
  /-- DISP[0..63]. -/
  disp : List Cell
  deriving DecidableEq, Repr

/-- A finished transaction the touch controller recognises (60_exceptions R180, R181). -/
inductive DevOp where
  /-- A write transaction to (r, d); `took` says whether REGS[r] became d. -/
  | write (r d : Byte) (took : Bool)
  /-- A read transaction of r that returned x; `acked` says that both address bytes were acknowledged (log 11). -/
  | read (r x : Byte) (acked : Bool)
  deriving DecidableEq, Repr

/-- The touch controller at address 0x28 (60_exceptions R179 to R183). -/
structure TouchController where
  /-- REGS[0..255]: the registers that differ from their power-up value, by rising address (log 10). -/
  regs : List Host.Cell
  /-- The events of the transaction in progress, from its `S` on; empty between transactions (log 12). -/
  cur : List BusEvent
  /-- The transactions finished so far, oldest first (log 12). -/
  log : List DevOp
  deriving DecidableEq, Repr

/-! ## The agents that drive the inputs -/

/-- The width of a host access; the block defines word accesses only (20_memory R66). -/
inductive AccessSize where
  | byte | half | word
  deriving DecidableEq, Repr

/-- A host access in one cycle at a byte offset of the block's 32-byte window (10_state R48, 20_memory R60 to R62). -/
inductive HostAccess where
  /-- HSEL = 0. -/
  | none
  | read (off : BitVec 5) (size : AccessSize)
  | write (off : BitVec 5) (size : AccessSize) (v : Word)
  deriving DecidableEq, Repr

/-- The five host registers (10_state R27). -/
inductive HostReg where
  | ctrl | status | cmd | rxdata | bitrate
  deriving DecidableEq, Repr

/-- The offsets of 10_state R27. -/
def HostReg.offset : HostReg → BitVec 5
  | .ctrl => 0x00
  | .status => 0x04
  | .cmd => 0x08
  | .rxdata => 0x0C
  | .bitrate => 0x10

/-- A statement of a host program (30_encoding R97); `C`, `REPEAT` and `FOR` are expanded in Machine/HostProgram.lean. That the
value of a `W`, and so an operand of a `C`, is a word fixed before the run, and no variable read earlier, is the model's choice
(DESIGN CHOICE, log 25): R97 does not say. -/
inductive HostStmt where
  /-- `W REG, v`. -/
  | w (reg : HostReg) (v : Word)
  /-- `R REG -> x`, the variable named by a number. -/
  | r (reg : HostReg) (x : Nat)
  /-- `WAITDONE`. -/
  | waitDone
  /-- `WAITIDLE`. -/
  | waitIdle
  deriving DecidableEq, Repr

/-- What the host does in one cycle (10_state R48; log 1, log 19). -/
inductive HostAct where
  /-- No access. -/
  | idle
  /-- This access. -/
  | access (a : HostAccess)
  /-- The access of the host program's current statement. -/
  | program
  deriving DecidableEq, Repr

/-- The pins the host side drives in one cycle: RST (00_scope R20) and the host's access. -/
structure PinCycle where
  rst : Bool
  act : HostAct
  deriving DecidableEq, Repr

/-- The environment's draws in one cycle: `done`, `ack` and `rx` of 10_state R47, and `take`, which of its two outcomes a write
transaction that ends in this cycle has (60_exceptions R180). -/
structure EnvInput where
  done : Bool
  ack : Bool
  rx : Byte
  take : Bool
  deriving DecidableEq, Repr

/-! ## The state -/

/-- The whole machine in one cycle. -/
structure State where
  /-- CTRL.I2C_EN (10_state R28). -/
  i2cEn : Bool
  /-- BITRATE[15:0] (10_state R39). -/
  bitrate : BitVec 16
  /-- STATUS.DONE (10_state R32). -/
  done : Bool
  /-- STATUS.ERR (10_state R33). -/
  err : Bool
  /-- STATUS.ERRCODE (10_state R33). -/
  errCode : ErrCode
  /-- STATUS.NACK (10_state R34). -/
  nack : Bool
  /-- STATUS.I2C_STATE (10_state R35). -/
  i2cState : I2cState
  /-- RXDATA[7:0] (10_state R38). -/
  rxdata : Byte
  /-- MODE (10_state R41). -/
  mode : Mode
  /-- SR (10_state R42). -/
  sr : Pixel
  /-- PH (10_state R42). -/
  ph : Nat
  /-- BL (10_state R42). -/
  bl : Nat
  /-- REM (10_state R43). -/
  rem : Nat
  /-- PL (10_state R43). -/
  pl : List Phase
  /-- PIDX (10_state R43). -/
  pidx : Nat
  /-- XACT (10_state R43). -/
  xact : Bool
  /-- TRACE, oldest event first: an observation that reset does not clear (10_state R43; log 14). -/
  trace : List BusEvent
  /-- The LED chain on DOUT (60_exceptions R176). -/
  chain : LedChain
  /-- The touch controller on the bus (60_exceptions R179). -/
  device : TouchController
  /-- The script of the pins: this cycle first. Beyond it RST is 0 and the host follows its program (log 1). -/
  hostQ : List PinCycle
  /-- The host program's statements still to run (30_encoding R97; log 19). -/
  prog : List HostStmt
  /-- The host program's variables, by rising number (30_encoding R97; log 19). -/
  vars : List (Nat × Word)
  /-- The script of the environment: this cycle first. Beyond it every draw is a free value of Config (log 1). -/
  envQ : List EnvInput
  /-- The number of cycles so far: the argument of the free values (log 1). -/
  tick : Nat
  deriving DecidableEq, Repr

/-- Why the machine stops with a fault. -/
inductive Fault where
  /-- Raised by the edge update (`onEdge`) in a sequencer state outside 10_state R41 to R43, where R46 has no next value to
  give: LED mode with PH above 19 or BL outside 1..24, DLY mode with REM = 0, I2C mode with PIDX past the end of PL. Safe: no
  run reaches such a state, and the model stops where the spec says nothing (log 5). -/
  | sequencerState
  deriving DecidableEq, Repr

/-- Why the machine has no step. -/
inductive Refusal where
  /-- Raised by `exec` for an instruction without a meaning. No arm uses it. Safe. -/
  | notModelled (mnemonic : String)
  /-- Raised by the edge for a byte, halfword or misaligned host access: NARROW_ACCESS is open and the model refuses it
  (20_memory R66). Safe. -/
  | narrowAccess
  deriving DecidableEq, Repr

/-- The LED chain at power-up: BAD, so that nothing of its state can be concluded until it has latched, and every cell a draw
(60_exceptions R176, R177; logs 7 and 9). -/
def LedChain.powerUp : LedChain where
  high := 0
  low := 0
  cut := false
  pending := []
  bad := true
  afterReset := true
  disp := (List.range cellsPerFrame).map (Cell.drawn 0)

/-- The touch controller at power-up: every register holds its power-up draw (60_exceptions R179; logs 10 and 12). -/
def TouchController.powerUp : TouchController where
  regs := []
  cur := []
  log := []

/-- The machine right after reset: the block in ResetState (10_state R54), the devices at power-up, nothing on the trace, and
no input scripted. -/
def State.reset : State where
  i2cEn := false
  bitrate := 0
  done := false
  err := false
  errCode := .none
  nack := false
  i2cState := .idle
  rxdata := 0
  mode := .idle
  sr := 0
  ph := 0
  bl := 0
  rem := 0
  pl := []
  pidx := 0
  xact := false
  trace := []
  chain := LedChain.powerUp
  device := TouchController.powerUp
  hostQ := []
  prog := []
  vars := []
  envQ := []
  tick := 0

/-- The three outcomes of a step of this machine. -/
abbrev Result := Host.Outcome State Fault Refusal

end Sys2Proof.Machine
end

