-- ==== Sys2Proof/Machine/Flags.lean ====
section
/-! DEFINITION. The flags and the STATUS word (10_state R30 to R35, R52). -/
namespace Sys2Proof.Machine

/-- Final(s): the active LED or delay command is in its final cycle (10_state R31). -/
def State.final (s : State) : Bool :=
  match s.mode with
  | .led => s.bl == 1 && s.ph == bitPeriod - 1
  | .dly => s.rem == 1
  | .idle | .i2c => false

/-- STATUS.BUSY (10_state R31). -/
def State.busy (s : State) : Bool :=
  match s.mode with
  | .idle => false
  | .led => !s.final
  | .dly => decide (2 ≤ s.rem)
  | .i2c => true

/-- The sequencer is in a state 10_state R41 to R43 gives it: the ranges of PH and BL while LED, REM ≥ 1 while DLY
(30_encoding R211), a phase in progress while I2C. -/
def State.seqOk (s : State) : Bool :=
  match s.mode with
  | .idle => true
  | .led => decide (s.ph < bitPeriod) && decide (1 ≤ s.bl) && decide (s.bl ≤ pixelBits)
  | .dly => decide (1 ≤ s.rem)
  | .i2c => decide (s.pidx < s.pl.length)

/-- I2C_STATE after a DONE clear: STOP_SENT becomes IDLE (10_state R36, 43_i2c_primitives R142). -/
def I2cState.afterClear : I2cState → I2cState
  | .stopSent => .idle
  | st => st

/-- The bus is neither idle nor stopped: what the abandonment event and bus ownership ask of I2C_STATE (10_state R29, R56). -/
def I2cState.midTransaction : I2cState → Bool
  | .idle | .stopSent => false
  | .startSent | .addrSent | .regSent | .dataSent | .restartSent | .addrSentRead | .dataReceived | .ackSent => true

/-- NACK after a TX phase: NACK OR ack (10_state R34, 43_i2c_primitives R130). -/
def nackAfterTx (nack ack : Bool) : Bool := nack || ack

/-- The STATUS word a read returns (10_state R30, 20_memory R63). -/
def State.statusWord (s : State) : Word :=
  (0 : BitVec 20) ++ s.i2cState.code ++ (0 : BitVec 1) ++ s.errCode.code ++
    BitVec.ofBool s.nack ++ BitVec.ofBool s.err ++ BitVec.ofBool s.done ++ BitVec.ofBool s.busy

end Sys2Proof.Machine
end

