-- ==== Sys2Proof/Machine/Operands.lean ====
section
/-! DEFINITION. The values a command's operands are assembled into (30_encoding R86, R211), and the pulse widths. -/
namespace Sys2Proof.Machine

/-- TH(b): high cycles of a bit (41_bit_encoder R110). -/
def highCycles (p : Params) (b : Bool) : Nat := if b then p.t1h else p.t0h

/-- The address byte with the write bit, (ADDR, 0) (20_memory R69, 30_encoding R86). -/
def addrWrite (addr : BitVec 7) : Byte := addr ++ (0 : BitVec 1)

/-- The address byte with the read bit, (ADDR, 1) (20_memory R69, 30_encoding R86). -/
def addrRead (addr : BitVec 7) : Byte := addr ++ (1 : BitVec 1)

/-- The pixel a WCOLOR loads: R on top, then G, then B (42_pixel_streamer R120). -/
def pixelWord (r g b : Byte) : Pixel := r ++ g ++ b

/-- The cycles of DLYN n: n × SHORT_CYCLES, exact, and 1 for n = 0 (40_cycle_delay R104, R107). -/
def delayCycles (p : Params) (n : BitVec 16) : Nat := if n = 0 then 1 else n.toNat * p.shortCycles

/-- The phases of I2C_WREG a, r, d (43_i2c_primitives R131). -/
def wregPhases (addr : BitVec 7) (reg data : Byte) : List Phase :=
  [.start, .tx (addrWrite addr), .tx reg, .tx data, .stop]

/-- The phases of I2C_RREG a, r (43_i2c_primitives R131). -/
def rregPhases (addr : BitVec 7) (reg : Byte) : List Phase :=
  [.start, .tx (addrWrite addr), .tx reg, .restart, .tx (addrRead addr), .rxb, .nak, .stop]

end Sys2Proof.Machine
end

