-- ==== Sys2Proof/Machine/LedChain.lean ====
section
/-! DEFINITION. The LED chain on DOUT (60_exceptions R176, R177): a passive observer that samples the level of every cycle, and
for which a pulse that a reset cuts short is of neither shape (70_reset_and_hazards R191). -/
namespace Sys2Proof.Machine

/-- The colour a cell shows (60_exceptions R177). -/
def Cell.colour : Cell → Pixel
  | .shown c => c
  | .drawn serial k => Config.cellDraw serial k

/-- Bits in transmission order as a pixel: the first one is R[7], the top bit (42_pixel_streamer R120). -/
def pixelOfBits (bits : List Bool) : Pixel :=
  bits.foldl (fun acc b => (acc <<< 1) ||| (BitVec.ofBool b).setWidth 24) 0

/-- The bit of a pulse's high time, if it is one of the two shapes (41_bit_encoder R118, 60_exceptions R176). -/
def bitOfHigh (p : Params) (h : Nat) : Option Bool :=
  if h = p.t0h then some false else if h = p.t1h then some true else none

/-- The bit of the open pulse, if it is one of the two shapes; a pulse cut short by a reset is neither, whatever its length
(70_reset_and_hazards R191; log 22). -/
def LedChain.openBit (p : Params) (c : LedChain) : Option Bool := if c.cut then none else bitOfHigh p c.high

/-- The chain receives a bit. While BAD the received bits are draws (60_exceptions R176; log 8). -/
def LedChain.receive (c : LedChain) (b : Bool) (serial : Nat) : LedChain :=
  { c with pending := c.pending ++ [if c.bad then Config.chainBit serial else b] }

/-- A pulse (high, l) closed by the next rising level: accepted within the tolerance, else havoc. An l of LATCH_CYCLES or more
is no longer open here (60_exceptions R176). -/
def LedChain.closePulse (p : Params) (c : LedChain) (serial : Nat) : LedChain :=
  match c.openBit p with
  | some b => if c.low ≤ bitPeriod - c.high + p.gapTol then c.receive b serial else { c with bad := true }
  | none => { c with bad := true }

/-- Latch() (60_exceptions R177): complete pixels are shown in order, a partial one leaves its cell a draw, the others keep
their colour; after havoc every cell is a draw. -/
def LedChain.latch (c : LedChain) (serial : Nat) : LedChain :=
  let n := c.pending.length / pixelBits
  let cell (k : Nat) (old : Cell) : Cell :=
    if c.bad then .drawn serial k
    else if k < n then .shown (pixelOfBits ((c.pending.drop (pixelBits * k)).take pixelBits))
    else if k = n ∧ c.pending.length % pixelBits ≠ 0 then .drawn serial k
    else old
  { c with disp := c.disp.mapIdx cell, pending := [], bad := false }

/-- The low run reaches LATCH_CYCLES: the open pulse, if there is one, gives its bit (or havoc), then the chain latches
(60_exceptions R176; log 8). -/
def LedChain.closeAndLatch (p : Params) (c : LedChain) (serial : Nat) : LedChain :=
  let closed : LedChain :=
    if c.high = 0 then c
    else
      match c.openBit p with
      | some b => c.receive b serial
      | none => { c with bad := true }
  { closed.latch serial with high := 0, cut := false, afterReset := false }

/-- The first high cycle of a pulse. -/
def LedChain.openPulse (c : LedChain) : LedChain := { c with high := 1, low := 0, cut := false, afterReset := false }

/-- The chain at a reset. An open pulse stays open, and what is pending stays pending: the low run goes on as its low time
(70_reset_and_hazards R191). Where no pulse is open, nothing is pending either, and the low run that can latch counts from the
reset (60_exceptions R176; log 24). -/
def LedChain.markReset (c : LedChain) : LedChain :=
  { c with low := if c.high = 0 then 0 else c.low, afterReset := true }

/-- The chain's state is a draw, at a pulse after a reset and a short idle (60_exceptions R176, 93_implementation_defined;
log 24). -/
def LedChain.undetermined (c : LedChain) (serial : Nat) : LedChain :=
  { c with pending := [], bad := true, disp := c.disp.mapIdx fun k _ => .drawn serial k }

/-- A high cycle: the first of a pulse, which closes the one before, or a further one. -/
def LedChain.sampleHigh (p : Params) (c : LedChain) (serial : Nat) : LedChain :=
  if c.high = 0 then c.openPulse
  else if c.low = 0 then { c with high := c.high + 1 }
  else (c.closePulse p serial).openPulse

/-- The chain samples one cycle's level of DOUT. -/
def LedChain.sample (p : Params) (c : LedChain) (level : Bool) (serial : Nat) : LedChain :=
  if level then
    if c.afterReset && !Config.chainGoesOn serial then (c.undetermined serial).openPulse else c.sampleHigh p serial
  else
    let longer := { c with low := c.low + 1 }
    if longer.low = p.latchCycles then longer.closeAndLatch p serial else longer

end Sys2Proof.Machine
end

