-- ==== Sys2Proof/Machine/TouchController.lean ====
section
/-! DEFINITION. The touch controller on the bus (60_exceptions R179 to R183): its register space as a canonical list of
(address, byte), and what it makes of the bus events. It constrains no draw of the environment. -/
namespace Sys2Proof.Machine

/-! ## The register space: 256 8-bit registers (20_memory R59) -/

/-- What a register that is not listed reads as: its power-up draw (60_exceptions R179; log 10). -/
def unlistedReg (a : Nat) : Byte := Config.regPowerUp a

/-- Read register a. -/
def readReg : List Host.Cell → Nat → Byte
  | [], a => unlistedReg a
  | (b, v) :: rest, a => if a = b then v else readReg rest a

/-- The cells without address a. -/
def dropReg : List Host.Cell → Nat → List Host.Cell
  | [], _ => []
  | (b, v) :: rest, a => if a = b then dropReg rest a else (b, v) :: dropReg rest a

/-- The cells with (a, v) put in at its place; a is not among them. -/
def insertReg : List Host.Cell → Nat → Byte → List Host.Cell
  | [], a, v => [(a, v)]
  | (b, u) :: rest, a, v => if a < b then (a, v) :: (b, u) :: rest else (b, u) :: insertReg rest a v

/-- Write v to register a. Writing what an unlisted register reads as removes the entry. -/
def writeReg (cells : List Host.Cell) (a : Nat) (v : Byte) : List Host.Cell :=
  if v = unlistedReg a then dropReg cells a else insertReg (dropReg cells a) a v

/-- The canonical form: addresses strictly rising from `low` on and below 256, no entry equal to what an unlisted register
reads as. -/
def regsWfFrom : Nat → List Host.Cell → Bool
  | _, [] => true
  | low, (a, v) :: rest =>
    decide (low ≤ a) && decide (a < 256) && decide (v ≠ unlistedReg a) && regsWfFrom (a + 1) rest

/-- The canonical form of the register space. -/
def Memory.wf (cells : List Host.Cell) : Bool := regsWfFrom 0 cells

/-- REGS[r] of the touch controller. -/
def TouchController.reg (d : TouchController) (r : Byte) : Byte := readReg d.regs r.toNat

/-! ## The bus events (60_exceptions R180, R181) -/

/-- 0x50, the address byte of DEV_ADDR with W. -/
def devWriteByte : Byte := devAddr ++ (0 : BitVec 1)
/-- 0x51, the address byte of DEV_ADDR with R. -/
def devReadByte : Byte := devAddr ++ (1 : BitVec 1)

/-- What the events between `S` and `P` amount to: a write transaction, a read transaction, or neither. The outcome of a write
is the draw `take` (60_exceptions R180, R181; logs 11 and 12). -/
def transactionOf (events : List BusEvent) (take : Bool) : Option DevOp :=
  match events with
  | [.s, .w a _, .w r _, .w d _] => if a = devWriteByte then some (.write r d take) else none
  | [.s, .w a k, .w r _, .sr, .w a' k', .r x, .n] =>
    if a = devWriteByte ∧ a' = devReadByte then some (.read r x (!k && !k')) else none
  | _ => none

/-- The device after a finished transaction: a write that takes sets REGS[r], everything else leaves REGS unchanged
(60_exceptions R180). -/
def TouchController.finish (d : TouchController) : Option DevOp → TouchController
  | none => { d with cur := [] }
  | some (.write r v took) =>
    { regs := if took then writeReg d.regs r.toNat v else d.regs, cur := [], log := d.log ++ [.write r v took] }
  | some (.read r x acked) => { d with cur := [], log := d.log ++ [.read r x acked] }

/-- The device hears a bus event. A transaction ends at `P`; `X` abandons it and leaves REGS unchanged (60_exceptions R180,
70_reset_and_hazards R191). -/
def TouchController.hear (d : TouchController) (e : BusEvent) (take : Bool) : TouchController :=
  match e with
  | .s => { d with cur := [.s] }
  | .x => { d with cur := [] }
  | .p => d.finish (transactionOf d.cur take)
  | e => { d with cur := d.cur ++ [e] }

end Sys2Proof.Machine
end

