-- ==== Sys2Proof/Machine/Ops.lean ====
section
/-! DEFINITION. The named operations of the block: the environment's draws, bus events, the error record, phase effects, the
advance of the active command (10_state R46 step 1), acceptance and rejection (R49), starting a command, and reset (R54). The
block raises no exception and returns from none (60_exceptions R159, R165): `State.raise` is all that an error does. -/
namespace Sys2Proof.Machine

/-! ## The environment (10_state R47) -/

/-- The draws of a cycle beyond the script: free values (10_state R47; log 1). -/
def EnvInput.drawn (tick : Nat) : EnvInput where
  done := Config.envDone tick
  ack := Config.envAck tick
  rx := Config.envRx tick
  take := Config.envTake tick

/-- The environment's draws in this cycle (10_state R47). -/
def State.env (s : State) : EnvInput := s.envQ.headD (EnvInput.drawn s.tick)

/-! ## Errors, DONE and bus events -/

/-- `raise Error(code)`: the first error is kept (10_state R33, 60_exceptions R159). -/
def State.raise (s : State) (code : ErrCode) : State :=
  { s with err := true, errCode := if s.err then s.errCode else code }

/-- DONE is cleared, and STOP_SENT becomes IDLE with it (10_state R36, R49, 43_i2c_primitives R142). -/
def State.clearDone (s : State) : State :=
  { s with done := false, i2cState := s.i2cState.afterClear }

/-- BusEvent(e): the trace gains e, and the device on the bus hears it (43_i2c_primitives R129). -/
def State.busEvent (s : State) (e : BusEvent) : State :=
  { s with trace := s.trace ++ [e], device := s.device.hear e s.env.take }

/-! ## The phases of the I2C master -/

/-- The state of a 4-bit code 0 to 9. -/
def I2cState.ofCode (k : Fin 10) : I2cState :=
  match k.val with
  | 0 => .idle
  | 1 => .startSent
  | 2 => .addrSent
  | 3 => .regSent
  | 4 => .dataSent
  | 5 => .stopSent
  | 6 => .restartSent
  | 7 => .addrSentRead
  | 8 => .dataReceived
  | _ => .ackSent

/-- TxNext (43_i2c_primitives R144). Outside its table it is a free value: no legal command reaches it there (log 6). -/
def txNext : I2cState → I2cState
  | .startSent => .addrSent
  | .addrSent => .regSent
  | .regSent => .dataSent
  | .restartSent => .addrSentRead
  | .idle => .ofCode (Config.txNextFree 0)
  | .dataSent => .ofCode (Config.txNextFree 4)
  | .stopSent => .ofCode (Config.txNextFree 5)
  | .addrSentRead => .ofCode (Config.txNextFree 7)
  | .dataReceived => .ofCode (Config.txNextFree 8)
  | .ackSent => .ofCode (Config.txNextFree 9)

/-- I2C_STATE after a phase (43_i2c_primitives R130). -/
def Phase.nextState (ph : Phase) (st : I2cState) : I2cState :=
  match ph with
  | .start => .startSent
  | .restart => .restartSent
  | .tx _ => txNext st
  | .rxb => .dataReceived
  | .nak => .ackSent
  | .stop => .stopSent

/-- The bus event of a phase that completes with the draws e (43_i2c_primitives R129, R130). -/
def Phase.event (ph : Phase) (e : EnvInput) : BusEvent :=
  match ph with
  | .start => .s
  | .restart => .sr
  | .tx b => .w b e.ack
  | .rxb => .r e.rx
  | .nak => .n
  | .stop => .p

/-- NACK after a phase: only a TX phase changes it (43_i2c_primitives R130). -/
def Phase.nextNack (ph : Phase) (nack : Bool) (e : EnvInput) : Bool :=
  match ph with
  | .tx _ => nackAfterTx nack e.ack
  | .start | .restart | .rxb | .nak | .stop => nack

/-- RXDATA after a phase: only an RXB phase changes it (43_i2c_primitives R130, R148). -/
def Phase.nextRxdata (ph : Phase) (rxdata : Byte) (e : EnvInput) : Byte :=
  match ph with
  | .rxb => e.rx
  | .start | .restart | .tx _ | .nak | .stop => rxdata

/-- ApplyPhase (43_i2c_primitives R130), with the draws of this cycle. -/
def State.applyPhase (s : State) (ph : Phase) : State :=
  { s.busEvent (ph.event s.env) with
    i2cState := ph.nextState s.i2cState
    nack := ph.nextNack s.nack s.env
    rxdata := ph.nextRxdata s.rxdata s.env }

/-- The end of an I2C command, at the edge of its last phase: MODE IDLE, DONE set, and a transaction command goes on to IDLE
(10_state R46 step 1, 44_i2c_transactions R153). -/
def State.finishI2c (s : State) : State :=
  { s with
    mode := .idle
    done := true
    i2cState := if s.xact then .idle else s.i2cState
    xact := false }

/-! ## Step 1 of the edge: the active command advances (10_state R46) -/

/-- One cycle of an LED command (10_state R46 step 1, 42_pixel_streamer R122). -/
def State.advanceLed (s : State) : State :=
  if s.final then { s with mode := .idle }
  else
    let moved : State :=
      if s.ph < bitPeriod - 1 then { s with ph := s.ph + 1 }
      else { s with ph := 0, sr := s.sr <<< 1, bl := s.bl - 1 }
    { moved with done := moved.done || moved.final }

/-- One cycle of a delay, or of a rejected command (10_state R46 step 1, 40_cycle_delay R105). -/
def State.advanceDly (s : State) : State :=
  { s with
    rem := s.rem - 1
    done := s.done || decide (s.rem - 1 = 1)
    mode := if s.rem - 1 = 0 then .idle else .dly }

/-- One cycle of an I2C command: the phase in progress completes where the environment says so (10_state R46 step 1, R47). -/
def State.advanceI2c (s : State) : State :=
  if s.env.done then
    match s.pl[s.pidx]? with
    | some ph =>
      let next : State := { s.applyPhase ph with pidx := s.pidx + 1 }
      if next.pidx = next.pl.length then next.finishI2c else next
    | none => s
  else s

/-- Step 1 of the edge (10_state R46). -/
def State.advance (s : State) : State :=
  match s.mode with
  | .idle => s
  | .led => s.advanceLed
  | .dly => s.advanceDly
  | .i2c => s.advanceI2c

/-- An edge without reset: step 1, then what the host's access does to the state after it (10_state R46 steps 1 and 2). A
sequencer state outside its ranges has no next state (log 5). -/
def onEdge (s : State) (access : State → State) : Result :=
  if s.seqOk then .next (access s.advance) else .fault .sequencerState

/-! ## Acceptance (10_state R49) -/

/-- Reject(code): the error is recorded and the command takes one cycle of DLY mode with DONE set (10_state R49,
60_exceptions R162). -/
def State.reject (s : State) (code : ErrCode) : State :=
  { s.raise code with mode := .dly, rem := 1, done := true }

/-- `Start`, then DONE at once for a command of one cycle (10_state R49). -/
def State.started (s : State) : State := { s with done := s.done || s.final }

/-- Accept (10_state R49): `now` is the state of the write's cycle and `s` the state after step 1. `gate` gives the error a
command that is no overrun is rejected with, if any; `start` is the command's Start. -/
def acceptCommand (now s : State) (gate : State → Option ErrCode) (start : State → State) : State :=
  if now.busy then s.raise .ovr
  else
    match gate s.clearDone with
    | some code => s.clearDone.reject code
    | none => (start s.clearDone).started

/-- The gate of the LED and timer commands: they ignore I2C_EN and I2C_STATE (10_state R29, R58). -/
def openGate (_ : State) : Option ErrCode := none

/-- The gate of an I2C command: DIS, then SEQ (10_state R49, 60_exceptions R164). -/
def i2cGate (legal : I2cState → Bool) (s : State) : Option ErrCode :=
  if !s.i2cEn then some .dis else if !legal s.i2cState then some .seq else none

/-- The gate of an ILLEGAL word (10_state R49, 30_encoding R89). -/
def illegalGate (_ : State) : Option ErrCode := some .ill

/-! ## Starting a command -/

/-- Start of an LED command: the pattern and the number of bits to send (41_bit_encoder R113, 42_pixel_streamer R122). -/
def State.startLed (s : State) (sr : Pixel) (bits : Nat) : State :=
  { s with mode := .led, sr := sr, ph := 0, bl := bits }

/-- Start of a delay of `cycles` cycles (40_cycle_delay R105). -/
def State.startDly (s : State) (cycles : Nat) : State :=
  { s with mode := .dly, rem := cycles }

/-- Start of an I2C command: its phase list and whether it is a transaction command (43_i2c_primitives R131). -/
def State.startI2c (s : State) (phases : List Phase) (xact : Bool) : State :=
  { s with mode := .i2c, pl := phases, pidx := 0, xact := xact, nack := false }

/-! ## Reset (10_state R46 step 0, R54) -/

/-- A reset abandons the bus: a phase is in progress, or the bus is held between commands (10_state R46 step 0). -/
def State.abandons (s : State) : Bool := s.mode == .i2c || s.i2cState.midTransaction

/-- An edge with RST = 1 or a soft reset: event X where the bus is abandoned, then ResetState (10_state R46 step 0, R54;
70_reset_and_hazards R189 to R191). The trace, the devices and the inputs are not the block's and stay
(what a reset does to the LED chain is in `State.chainNext`). -/
def State.resetBlock (s : State) : State :=
  let b := if s.abandons then s.busEvent .x else s
  { State.reset with
    trace := b.trace
    chain := b.chain
    device := b.device
    hostQ := b.hostQ
    prog := b.prog
    vars := b.vars
    envQ := b.envQ
    tick := b.tick }

/-! ## Outputs (10_state R45) -/

/-- DOUT with the pulse widths of p (41_bit_encoder R110). -/
def State.doutWith (p : Params) (s : State) : Bool :=
  s.mode == .led && decide (s.ph < highCycles p (s.sr.getLsbD 23))

/-- DOUT (10_state R45, 41_bit_encoder R110). -/
def State.dout (s : State) : Bool := s.doutWith Config.params

/-- The master owns the bus (10_state R56). -/
def State.ownsBus (s : State) : Bool := s.i2cEn && s.i2cState.midTransaction

/-- What SCL and SDA carry (10_state R45, R56). -/
def State.busLines (s : State) : BusLines :=
  match s.mode, s.pl[s.pidx]? with
  | .i2c, some ph => .phase ph
  | _, _ => if s.ownsBus then .held else .released

end Sys2Proof.Machine
end

