-- ==== Sys2Proof/Machine/BitEncoder.lean ====
section
/-! DEFINITION. The bit encoder's commands (41_bit_encoder R109 to R118). -/
namespace Sys2Proof.Machine

/-- EMIT0 (41_bit_encoder R113). -/
def execEmit0 (s : State) : Result :=
  onEdge s fun s1 => acceptCommand s s1 openGate fun s2 => s2.startLed 0x000000 1

/-- EMIT1: SR[23] = 1 selects T1H (41_bit_encoder R114). -/
def execEmit1 (s : State) : Result :=
  onEdge s fun s1 => acceptCommand s s1 openGate fun s2 => s2.startLed 0x800000 1

end Sys2Proof.Machine
end

