-- ==== Sys2Proof/Machine/CycleTimer.lean ====
section
/-! DEFINITION. The cycle timer's commands (40_cycle_delay R101 to R108). A meaning is the whole update of the edge that ends
the cycle in which the command's word is written to CMD (log 2). -/
namespace Sys2Proof.Machine

/-- DLYS (40_cycle_delay R105). -/
def execDlys (s : State) : Result :=
  onEdge s fun s1 => acceptCommand s s1 openGate fun s2 => s2.startDly Config.params.shortCycles

/-- DLYL (40_cycle_delay R106). -/
def execDlyl (s : State) : Result :=
  onEdge s fun s1 => acceptCommand s s1 openGate fun s2 => s2.startDly Config.params.longCycles

/-- DLYN n (40_cycle_delay R107). -/
def execDlyn (n : BitVec 16) (s : State) : Result :=
  onEdge s fun s1 => acceptCommand s s1 openGate fun s2 => s2.startDly (delayCycles Config.params n)

end Sys2Proof.Machine
end

