-- ==== Sys2Proof/Machine/I2cPrimitives.lean ====
section
/-! DEFINITION. The primitive commands of the I2C master and their legality (43_i2c_primitives R128 to R150). -/
namespace Sys2Proof.Machine

/-- I2C_START is legal in IDLE (43_i2c_primitives R132). -/
def legalStart (st : I2cState) : Bool := st == .idle

/-- I2C_RESTART is legal in REG_SENT (43_i2c_primitives R132). -/
def legalRestart (st : I2cState) : Bool := st == .regSent

/-- I2C_STOP is legal in DATA_SENT and ACK_SENT (43_i2c_primitives R132). -/
def legalStop (st : I2cState) : Bool := st == .dataSent || st == .ackSent

/-- I2C_TX b: after START an address byte must carry W, after RESTART it must carry R (43_i2c_primitives R132). -/
def legalTx (b : Byte) (st : I2cState) : Bool :=
  (st == .startSent && !b.getLsbD 0) || st == .addrSent || st == .regSent || (st == .restartSent && b.getLsbD 0)

/-- I2C_RXN is legal in ADDR_SENT_READ (43_i2c_primitives R132). -/
def legalRxn (st : I2cState) : Bool := st == .addrSentRead

/-- I2C_START (43_i2c_primitives R137). -/
def execI2cStart (s : State) : Result :=
  onEdge s fun s1 => acceptCommand s s1 (i2cGate legalStart) fun s2 => s2.startI2c [.start] false

/-- I2C_RESTART (43_i2c_primitives R139). -/
def execI2cRestart (s : State) : Result :=
  onEdge s fun s1 => acceptCommand s s1 (i2cGate legalRestart) fun s2 => s2.startI2c [.restart] false

/-- I2C_STOP (43_i2c_primitives R141). -/
def execI2cStop (s : State) : Result :=
  onEdge s fun s1 => acceptCommand s s1 (i2cGate legalStop) fun s2 => s2.startI2c [.stop] false

/-- I2C_TX b (43_i2c_primitives R143). -/
def execI2cTx (b : Byte) (s : State) : Result :=
  onEdge s fun s1 => acceptCommand s s1 (i2cGate (legalTx b)) fun s2 => s2.startI2c [.tx b] false

/-- I2C_RXN: receive one byte, then NACK (43_i2c_primitives R146). -/
def execI2cRxn (s : State) : Result :=
  onEdge s fun s1 => acceptCommand s s1 (i2cGate legalRxn) fun s2 => s2.startI2c [.rxb, .nak] false

end Sys2Proof.Machine
end

