-- ==== Sys2Proof/Machine/I2cTransactions.lean ====
section
/-! DEFINITION. The transaction commands of the I2C master (44_i2c_transactions R151 to R158). -/
namespace Sys2Proof.Machine

/-- I2C_WREG is legal in IDLE (43_i2c_primitives R132). -/
def legalWreg (st : I2cState) : Bool := st == .idle

/-- I2C_RREG is legal in IDLE (43_i2c_primitives R132). -/
def legalRreg (st : I2cState) : Bool := st == .idle

/-- I2C_WREG a, r, d (44_i2c_transactions R152). -/
def execI2cWreg (addr : BitVec 7) (reg data : Byte) (s : State) : Result :=
  onEdge s fun s1 =>
    acceptCommand s s1 (i2cGate legalWreg) fun s2 => s2.startI2c (wregPhases addr reg data) true

/-- I2C_RREG a, r (44_i2c_transactions R154). -/
def execI2cRreg (addr : BitVec 7) (reg : Byte) (s : State) : Result :=
  onEdge s fun s1 =>
    acceptCommand s s1 (i2cGate legalRreg) fun s2 => s2.startI2c (rregPhases addr reg) true

end Sys2Proof.Machine
end

