-- ==== Sys2Proof/Machine/PixelSerializer.lean ====
section
/-! DEFINITION. The pixel serializer's command (42_pixel_streamer R119 to R127). -/
namespace Sys2Proof.Machine

/-- WCOLOR r, g, b (42_pixel_streamer R122). -/
def execWcolor (r g b : Byte) (s : State) : Result :=
  onEdge s fun s1 => acceptCommand s s1 openGate fun s2 => s2.startLed (pixelWord r g b) pixelBits

end Sys2Proof.Machine
end

