-- ==== Sys2Proof/Syntax.lean ====
section
/-! DEFINITION. The commands of the block: one constructor per row of spec/opcode_table.json, in the table's order
(30_encoding R87). -/
namespace Sys2Proof

/-- A command. Every operand is an unsigned field of its own width, taken as is (30_encoding R86), so an operand that does not
fit its field cannot be written; what a host may write down in numerals is `AsmLine` (WellFormed.lean). -/
inductive Instr where
  /-- EMIT0, format N (41_bit_encoder R113). -/
  | emit0
  /-- EMIT1, format N (41_bit_encoder R114). -/
  | emit1
  /-- WCOLOR r, g, b, format P (42_pixel_streamer R122). -/
  | wcolor (r g b : Byte)
  /-- DLYS, format N (40_cycle_delay R105). -/
  | dlys
  /-- DLYL, format N (40_cycle_delay R106). -/
  | dlyl
  /-- DLYN n, format D (40_cycle_delay R107). -/
  | dlyn (n : BitVec 16)
  /-- I2C_START, format N (43_i2c_primitives R137). -/
  | i2cStart
  /-- I2C_RESTART, format N (43_i2c_primitives R139). -/
  | i2cRestart
  /-- I2C_STOP, format N (43_i2c_primitives R141). -/
  | i2cStop
  /-- I2C_TX byte, format B (43_i2c_primitives R143). -/
  | i2cTx (data : Byte)
  /-- I2C_RXN, format N (43_i2c_primitives R146). -/
  | i2cRxn
  /-- I2C_WREG addr7, reg, data, format W (44_i2c_transactions R152). -/
  | i2cWreg (addr : BitVec 7) (reg data : Byte)
  /-- I2C_RREG addr7, reg, format Q (44_i2c_transactions R154). -/
  | i2cRreg (addr : BitVec 7) (reg : Byte)
  deriving DecidableEq, Repr

end Sys2Proof
end

