-- ==== Sys2Proof/Machine/Dispatch.lean ====
section
/-! DEFINITION. One arm per command (30_encoding R87). -/
namespace Sys2Proof.Machine

/-- The meaning of a command: the update of the edge that ends the cycle in which its word is written to CMD (log 2). -/
def exec (i : Instr) (s : State) : Host.Outcome State Fault Refusal :=
  match i with
  | .emit0 => Sys2Proof.Machine.execEmit0 s
  | .emit1 => Sys2Proof.Machine.execEmit1 s
  | .wcolor r g b => Sys2Proof.Machine.execWcolor r g b s
  | .dlys => Sys2Proof.Machine.execDlys s
  | .dlyl => Sys2Proof.Machine.execDlyl s
  | .dlyn n => Sys2Proof.Machine.execDlyn n s
  | .i2cStart => Sys2Proof.Machine.execI2cStart s
  | .i2cRestart => Sys2Proof.Machine.execI2cRestart s
  | .i2cStop => Sys2Proof.Machine.execI2cStop s
  | .i2cTx data => Sys2Proof.Machine.execI2cTx data s
  | .i2cRxn => Sys2Proof.Machine.execI2cRxn s
  | .i2cWreg addr reg data => Sys2Proof.Machine.execI2cWreg addr reg data s
  | .i2cRreg addr reg => Sys2Proof.Machine.execI2cRreg addr reg s

end Sys2Proof.Machine
end

