-- ==== Sys2Proof/WellFormed.lean ====
section
/-! DEFINITION. What a host may write down (30_encoding R95) and the assembler's checks of it (R96). An `Instr` itself is
well-formed by its types: each operand has the width of its field. -/
namespace Sys2Proof

/-- The mnemonics of 30_encoding R95. -/
inductive Mnemonic where
  | emit0 | emit1 | wcolor | dlys | dlyl | dlyn
  | i2cStart | i2cRestart | i2cStop | i2cTx | i2cRxn | i2cWreg | i2cRreg
  deriving DecidableEq, Repr

/-- The spelling of a mnemonic (30_encoding R87). -/
def Mnemonic.text : Mnemonic → String
  | .emit0 => "EMIT0"
  | .emit1 => "EMIT1"
  | .wcolor => "WCOLOR"
  | .dlys => "DLYS"
  | .dlyl => "DLYL"
  | .dlyn => "DLYN"
  | .i2cStart => "I2C_START"
  | .i2cRestart => "I2C_RESTART"
  | .i2cStop => "I2C_STOP"
  | .i2cTx => "I2C_TX"
  | .i2cRxn => "I2C_RXN"
  | .i2cWreg => "I2C_WREG"
  | .i2cRreg => "I2C_RREG"

/-- The bounds of a mnemonic's operands, in the field order of its format (30_encoding R95, R96): operand k must be below
bound k. -/
def Mnemonic.bounds : Mnemonic → List Nat
  | .wcolor => [256, 256, 256]
  | .dlyn => [65536]
  | .i2cTx => [256]
  | .i2cWreg => [128, 256, 256]
  | .i2cRreg => [128, 256]
  | .emit0 | .emit1 | .dlys | .dlyl | .i2cStart | .i2cRestart | .i2cStop | .i2cRxn => []

/-- A command as written: a mnemonic, then its operands as numerals (30_encoding R95). -/
structure AsmLine where
  op : Mnemonic
  operands : List Nat
  deriving DecidableEq, Repr

/-- As many operands as bounds, each below its bound. -/
def withinBounds : List Nat → List Nat → Bool
  | [], [] => true
  | x :: xs, b :: bs => decide (x < b) && withinBounds xs bs
  | _, _ => false

/-- The assembler's check: the right number of operands, each fitting its field (30_encoding R96). -/
def AsmLine.wellFormed (l : AsmLine) : Bool := withinBounds l.operands l.op.bounds

/-- The command of a well-formed line; nothing for a line the assembler refuses. It never truncates (30_encoding R96). -/
def AsmLine.assemble (l : AsmLine) : Option Instr :=
  if l.wellFormed then
    match l.op, l.operands with
    | .emit0, [] => some .emit0
    | .emit1, [] => some .emit1
    | .wcolor, [r, g, b] => some (.wcolor (BitVec.ofNat 8 r) (BitVec.ofNat 8 g) (BitVec.ofNat 8 b))
    | .dlys, [] => some .dlys
    | .dlyl, [] => some .dlyl
    | .dlyn, [n] => some (.dlyn (BitVec.ofNat 16 n))
    | .i2cStart, [] => some .i2cStart
    | .i2cRestart, [] => some .i2cRestart
    | .i2cStop, [] => some .i2cStop
    | .i2cTx, [b] => some (.i2cTx (BitVec.ofNat 8 b))
    | .i2cRxn, [] => some .i2cRxn
    | .i2cWreg, [a, r, d] => some (.i2cWreg (BitVec.ofNat 7 a) (BitVec.ofNat 8 r) (BitVec.ofNat 8 d))
    | .i2cRreg, [a, r] => some (.i2cRreg (BitVec.ofNat 7 a) (BitVec.ofNat 8 r))
    | _, _ => none
  else none

/-- A command's mnemonic. -/
def Instr.mnemonic : Instr → Mnemonic
  | .emit0 => .emit0
  | .emit1 => .emit1
  | .wcolor _ _ _ => .wcolor
  | .dlys => .dlys
  | .dlyl => .dlyl
  | .dlyn _ => .dlyn
  | .i2cStart => .i2cStart
  | .i2cRestart => .i2cRestart
  | .i2cStop => .i2cStop
  | .i2cTx _ => .i2cTx
  | .i2cRxn => .i2cRxn
  | .i2cWreg _ _ _ => .i2cWreg
  | .i2cRreg _ _ => .i2cRreg

/-- A command's operands as natural numbers, in the field order of its format (30_encoding R86, R95). -/
def Instr.operands : Instr → List Nat
  | .wcolor r g b => [r.toNat, g.toNat, b.toNat]
  | .dlyn n => [n.toNat]
  | .i2cTx b => [b.toNat]
  | .i2cWreg a r d => [a.toNat, r.toNat, d.toNat]
  | .i2cRreg a r => [a.toNat, r.toNat]
  | .emit0 | .emit1 | .dlys | .dlyl | .i2cStart | .i2cRestart | .i2cStop | .i2cRxn => []

end Sys2Proof
end

