-- ==== Sys2Proof/Decode.lean ====
section
/-! DEFINITION. The decoder of command words, total over all 2^32 words (30_encoding R92), the encoder written from the same
formats (R80 to R85), and the rows of spec/opcode_table.json. -/
namespace Sys2Proof

/-- Why a word is ILLEGAL. Both answers raise the same error ILL (30_encoding R89, R93; 60_exceptions R161). -/
inductive IllegalWord where
  /-- Opcodes 0x0, 0x7 and 0xF (30_encoding R89). -/
  | reservedOpcode (op : Nat)
  /-- A nonzero reserved bit (30_encoding R93). -/
  | reservedBits
  deriving DecidableEq, Repr

/-- What a word decodes to: a command, or ILLEGAL (30_encoding R91, R92). -/
inductive Decoded where
  | command (i : Instr)
  | illegal (why : IllegalWord)
  deriving DecidableEq, Repr

/-- A command whose format asks for zero in the bits `reserved` (30_encoding R93). -/
def requireZero (reserved : Nat) (i : Instr) : Decoded :=
  if reserved = 0 then .command i else .illegal .reservedBits

/-- Decode (30_encoding R92), field by field as the rule writes it. -/
def decode (w : Word) : Decoded :=
  if w.extractLsb' 24 4 ≠ 0 then .illegal .reservedBits
  else
    match (w.extractLsb' 28 4).toNat with
    | 0x1 => requireZero (w.extractLsb' 0 24).toNat .emit0
    | 0x2 => requireZero (w.extractLsb' 0 24).toNat .emit1
    | 0x3 => .command (.wcolor (w.extractLsb' 16 8) (w.extractLsb' 8 8) (w.extractLsb' 0 8))
    | 0x4 => requireZero (w.extractLsb' 0 24).toNat .dlys
    | 0x5 => requireZero (w.extractLsb' 0 24).toNat .dlyl
    | 0x6 => requireZero (w.extractLsb' 16 8).toNat (.dlyn (w.extractLsb' 0 16))
    | 0x8 => requireZero (w.extractLsb' 0 24).toNat .i2cStart
    | 0x9 => requireZero (w.extractLsb' 0 24).toNat .i2cRestart
    | 0xA => requireZero (w.extractLsb' 0 24).toNat .i2cStop
    | 0xB => requireZero (w.extractLsb' 8 16).toNat (.i2cTx (w.extractLsb' 0 8))
    | 0xC => requireZero (w.extractLsb' 0 24).toNat .i2cRxn
    | 0xD => requireZero (w.extractLsb' 23 1).toNat
        (.i2cWreg (w.extractLsb' 16 7) (w.extractLsb' 8 8) (w.extractLsb' 0 8))
    | 0xE => requireZero ((w.extractLsb' 23 1).toNat + (w.extractLsb' 0 8).toNat)
        (.i2cRreg (w.extractLsb' 16 7) (w.extractLsb' 8 8))
    | op => .illegal (.reservedOpcode op)

/-- The container of 30_encoding R79: OP in bits 31:28, zero in bits 27:24, the operand fields in bits 23:0. -/
def packWord (op : BitVec 4) (fields : BitVec 24) : Word := op ++ (0 : BitVec 4) ++ fields

/-- The word of a command, by its format (30_encoding R80 to R85, R87). -/
def encode : Instr → Word
  | .emit0 => packWord 0x1 0
  | .emit1 => packWord 0x2 0
  | .wcolor r g b => packWord 0x3 (r ++ g ++ b)
  | .dlys => packWord 0x4 0
  | .dlyl => packWord 0x5 0
  | .dlyn n => packWord 0x6 ((0 : BitVec 8) ++ n)
  | .i2cStart => packWord 0x8 0
  | .i2cRestart => packWord 0x9 0
  | .i2cStop => packWord 0xA 0
  | .i2cTx data => packWord 0xB ((0 : BitVec 16) ++ data)
  | .i2cRxn => packWord 0xC 0
  | .i2cWreg addr reg data => packWord 0xD ((0 : BitVec 1) ++ addr ++ reg ++ data)
  | .i2cRreg addr reg => packWord 0xE ((0 : BitVec 1) ++ addr ++ reg ++ (0 : BitVec 8))

/-- A row of spec/opcode_table.json: a word w belongs to it when `w AND mask = pattern` (30_encoding R92). -/
structure OpcodeRow where
  name : Mnemonic
  pattern : Word
  mask : Word
  deriving DecidableEq, Repr

/-- spec/opcode_table.json, row by row. -/
def opcodeTable : List OpcodeRow :=
  [⟨.emit0, 0x10000000, 0xFFFFFFFF⟩, ⟨.emit1, 0x20000000, 0xFFFFFFFF⟩, ⟨.wcolor, 0x30000000, 0xFF000000⟩,
   ⟨.dlys, 0x40000000, 0xFFFFFFFF⟩, ⟨.dlyl, 0x50000000, 0xFFFFFFFF⟩, ⟨.dlyn, 0x60000000, 0xFFFF0000⟩,
   ⟨.i2cStart, 0x80000000, 0xFFFFFFFF⟩, ⟨.i2cRestart, 0x90000000, 0xFFFFFFFF⟩, ⟨.i2cStop, 0xA0000000, 0xFFFFFFFF⟩,
   ⟨.i2cTx, 0xB0000000, 0xFFFFFF00⟩, ⟨.i2cRxn, 0xC0000000, 0xFFFFFFFF⟩, ⟨.i2cWreg, 0xD0000000, 0xFF800000⟩,
   ⟨.i2cRreg, 0xE0000000, 0xFF8000FF⟩]

/-- The families of 30_encoding R88. -/
inductive Family where
  | led | timer | i2c
  deriving DecidableEq, Repr

/-- IsLED, IsTimer and IsI2C (30_encoding R88). -/
def Instr.family : Instr → Family
  | .emit0 | .emit1 | .wcolor _ _ _ => .led
  | .dlys | .dlyl | .dlyn _ => .timer
  | .i2cStart | .i2cRestart | .i2cStop | .i2cTx _ | .i2cRxn | .i2cWreg _ _ _ | .i2cRreg _ _ => .i2c

/-- The decoder on one instruction of the opcode table, given as its bits: a command is one 32-bit word written to CMD whole
(30_encoding R79, R94), so the word is laid out as itself (log 18). -/
def decodeTableWord (nbits w : Nat) : Option Instr :=
  if nbits ≤ 32 ∧ w < 2 ^ nbits then
    match decode (BitVec.ofNat 32 w) with
    | .command i => some i
    | .illegal _ => none
  else none

end Sys2Proof
end

