-- ==== Sys2Proof/Machine/HostPort.lean ====
section
/-! DEFINITION. The host port (20_memory R59 to R67): what an access selects, what a read returns, and what the writes that are
no commands do (10_state R46 step 2). -/
namespace Sys2Proof.Machine

/-- An access at a host bus address: inside the 32-byte window at BASE it reaches the block, elsewhere HSEL = 0
(20_memory R60, R61). -/
def windowOffset (p : Params) (address : Nat) : Option (BitVec 5) :=
  if p.base ≤ address ∧ address < p.base + 0x20 then some (BitVec.ofNat 5 (address - p.base)) else none

/-- What the port sees of an access: HOFF[4:2] and the data of a word access, or an access the block does not define
(20_memory R62, R66). -/
inductive PortAccess where
  | none
  | read (k : BitVec 3)
  | write (k : BitVec 3) (v : Word)
  | narrow
  deriving DecidableEq, Repr

/-- A word access at a word-aligned offset (20_memory R66). -/
def isWordAccess (off : BitVec 5) (size : AccessSize) : Bool := size == .word && off.extractLsb' 0 2 == 0

/-- HOFF[4:2] of a byte offset (20_memory R61). -/
def wordIndex (off : BitVec 5) : BitVec 3 := off.extractLsb' 2 3

/-- The access at the port (20_memory R62, R66). -/
def HostAccess.port : HostAccess → PortAccess
  | .none => .none
  | .read off size => if isWordAccess off size then .read (wordIndex off) else .narrow
  | .write off size v => if isWordAccess off size then .write (wordIndex off) v else .narrow

/-- RegValue (20_memory R63), by word index. -/
def State.regValue (s : State) (k : BitVec 3) : Word :=
  match k.toNat with
  | 0 => (BitVec.ofBool s.i2cEn).setWidth 32
  | 1 => s.statusWord
  | 2 => 0
  | 3 => s.rxdata.setWidth 32
  | 4 => s.bitrate.setWidth 32
  | _ => 0

/-- A CTRL write with bit 1 = 0 (10_state R28, R29, R46 step 2): `now` is the state of the write's cycle, `s` the state after
step 1. Clearing I2C_EN between START and STOP abandons the transaction. -/
def writeCtrl (v : Word) (now s : State) : State :=
  if now.busy then s.raise .ovr
  else if v.getLsbD 0 then { s with i2cEn := true }
  else
    let b := if s.i2cState.midTransaction then s.busEvent .x else s
    { b with i2cEn := false, i2cState := .idle }

/-- A STATUS write (10_state R36, R46 step 2): bit 1 clears DONE unless DONE is set at this edge. -/
def writeStatus (v : Word) (now s : State) : State :=
  if v.getLsbD 1 && !(s.done && !now.done) then s.clearDone else s

/-- A BITRATE write (10_state R39, R46 step 2). -/
def writeBitrate (v : Word) (now s : State) : State :=
  if now.busy then s.raise .ovr else { s with bitrate := v.extractLsb' 0 16 }

end Sys2Proof.Machine
end

