-- ==== Sys2Proof/Machine/HostProgram.lean ====
section
/-! DEFINITION. The host: the pins of a cycle, host programs in the notation of 30_encoding R97, and the pseudo-commands of R98
as programs. -/
namespace Sys2Proof.Machine

/-! ## The pins of a cycle (logs 1 and 19) -/

/-- What the host side does in this cycle: the script's entry, and beyond the script RST = 0 and the host program. -/
def State.pins (s : State) : PinCycle := s.hostQ.headD { rst := false, act := .program }

/-- The access of the host program's current statement (30_encoding R97). -/
def programAccess : List HostStmt → HostAccess
  | [] => .none
  | .w reg v :: _ => .write reg.offset .word v
  | .r reg _ :: _ => .read reg.offset .word
  | .waitDone :: _ => .read HostReg.status.offset .word
  | .waitIdle :: _ => .read HostReg.status.offset .word

/-- The host's access in this cycle (10_state R48). -/
def State.access (s : State) : HostAccess :=
  match s.pins.act with
  | .idle => .none
  | .access a => a
  | .program => programAccess s.prog

/-- HRDATA: the value a read of this cycle returns (10_state R45, 20_memory R62, R63). -/
def State.hrdata (s : State) : Option Word :=
  match s.access.port with
  | .read k => some (s.regValue k)
  | .none | .write _ _ | .narrow => none

/-- x <- v in the host's variables, kept by rising number. -/
def setVar : List (Nat × Word) → Nat → Word → List (Nat × Word)
  | [], x, v => [(x, v)]
  | (y, u) :: rest, x, v =>
    if x < y then (x, v) :: (y, u) :: rest
    else if x = y then (x, v) :: rest
    else (y, u) :: setVar rest x v

/-- The host program after a cycle in which its current statement made its access: `value` is the STATUS or register value
read. A wait repeats its read until the bit it waits for says so (30_encoding R97). -/
def programNext (prog : List HostStmt) (value : Word) : List HostStmt :=
  match prog with
  | [] => []
  | .w _ _ :: rest => rest
  | .r _ _ :: rest => rest
  | .waitDone :: rest => if value.getLsbD 1 then rest else prog
  | .waitIdle :: rest => if value.getLsbD 0 then prog else rest

/-- The host's variables after such a cycle (30_encoding R97). -/
def varsNext (prog : List HostStmt) (vars : List (Nat × Word)) (value : Word) : List (Nat × Word) :=
  match prog with
  | .r _ x :: _ => setVar vars x value
  | _ => vars

/-- The host moves on by one cycle: the script's entry is used up, and a program statement that made its access is done or
repeats. -/
def State.hostMoves (before s : State) : State :=
  let value := (before.hrdata).getD 0
  { s with
    hostQ := before.hostQ.tail
    prog := if before.pins.act = .program then programNext before.prog value else before.prog
    vars := if before.pins.act = .program then varsNext before.prog before.vars value else before.vars }

/-! ## Statements and pseudo-commands (30_encoding R97, R98) -/

/-- `C <command>`: a CMD write of its word. -/
def HostStmt.c (i : Instr) : HostStmt := .w .cmd (encode i)

/-- `REPEAT k` of a body. -/
def repeatStmts (k : Nat) (body : List HostStmt) : List HostStmt := (List.replicate k body).flatten

/-- `FOR i IN a..b` of a body. -/
def forStmts (a b : Nat) (body : Nat → List HostStmt) : List HostStmt :=
  ((List.range (b + 1 - a)).map (fun k => body (a + k))).flatten

/-- A command and the wait for its completion flag. -/
def runToDone (i : Instr) : List HostStmt := [.c i, .waitDone]

/-- `delay_short`. -/
def delayShort : List HostStmt := runToDone .dlys
/-- `delay_long`. -/
def delayLong : List HostStmt := runToDone .dlyl
/-- `delay_n_short n`: one DLYN up to 65535, more above. -/
def delayNShort (n : Nat) : List HostStmt :=
  if n ≤ 65535 then runToDone (.dlyn (BitVec.ofNat 16 n))
  else repeatStmts (n / 65535) (runToDone (.dlyn 65535)) ++ runToDone (.dlyn (BitVec.ofNat 16 (n % 65535)))
/-- `emit_zero`. -/
def emitZero : List HostStmt := runToDone .emit0
/-- `emit_one`. -/
def emitOne : List HostStmt := runToDone .emit1
/-- `writeColor r, g, b`. -/
def writeColor (r g b : Byte) : List HostStmt := runToDone (.wcolor r g b)
/-- `write_register a, r, d`. -/
def writeRegister (a : BitVec 7) (r d : Byte) : List HostStmt := runToDone (.i2cWreg a r d)
/-- `read_register r -> x`: it always addresses the touch controller (44_i2c_transactions R157). -/
def readRegister (r : Byte) (x : Nat) : List HostStmt := runToDone (.i2cRreg devAddr r) ++ [.r .rxdata x]
/-- `write_register.p a, r, d`. -/
def writeRegisterP (a : BitVec 7) (r d : Byte) : List HostStmt :=
  runToDone .i2cStart ++ runToDone (.i2cTx (addrWrite a)) ++ runToDone (.i2cTx r) ++ runToDone (.i2cTx d) ++
    runToDone .i2cStop
/-- `read_register.p r -> x`. -/
def readRegisterP (r : Byte) (x : Nat) : List HostStmt :=
  runToDone .i2cStart ++ runToDone (.i2cTx devWriteByte) ++ runToDone (.i2cTx r) ++ runToDone .i2cRestart ++
    runToDone (.i2cTx devReadByte) ++ runToDone .i2cRxn ++ [.r .rxdata x] ++ runToDone .i2cStop
/-- `setup(k)`: the touch controller's initialisation (70_reset_and_hazards R192 steps 2 to 4). -/
def setupProgram (k : BitVec 16) : List HostStmt :=
  [.w .bitrate (k.setWidth 32), .w .ctrl 0x1] ++ repeatStmts mapRepeat (writeRegister devAddr mapReg mapVal)

end Sys2Proof.Machine
end

