-- ==== Sys2Proof/Machine/Edge.lean ====
section
/-! DEFINITION. One clock edge (10_state R46): reset, the access the model refuses, or step 1 with the host's access, and then
what every cycle does to the agents around the block. -/
namespace Sys2Proof.Machine

/-- The access at the port in this cycle. -/
def State.port (s : State) : PortAccess := s.access.port

/-- This edge resets the block: RST = 1, or a CTRL write with bit 1 = 1 (10_state R46 step 0, 70_reset_and_hazards R189,
R190). -/
def State.resetting (s : State) : Bool :=
  s.pins.rst ||
    (match s.port with
     | .write k v => k == 0 && v.getLsbD 1
     | .none | .read _ | .narrow => false)

/-- A CMD write of an ILLEGAL word (10_state R49, 60_exceptions R160). -/
def rejectWord (s : State) : Result := onEdge s fun s1 => acceptCommand s s1 illegalGate id

/-- A CMD write: the meaning of the command its word decodes to, or the rejection of an ILLEGAL word (10_state R37, R49). -/
def runWord (w : Word) (s : State) : Result :=
  match decode w with
  | .command i => exec i s
  | .illegal _ => rejectWord s

/-- A host write without soft reset, by word index; reserved offsets, RXDATA and everything else ignore it
(10_state R46 step 2, 20_memory R65). -/
def writeWord (k : BitVec 3) (v : Word) (s : State) : Result :=
  match k.toNat with
  | 0 => onEdge s (writeCtrl v s)
  | 1 => onEdge s (writeStatus v s)
  | 2 => runWord v s
  | 4 => onEdge s (writeBitrate v s)
  | _ => onEdge s id

/-- The edge update of the block (10_state R46). Reset comes before the refusal of a narrow access: at an edge with RST = 1 the
access is lost, whatever it is (70_reset_and_hazards R189; log 4). -/
def blockEdge (s : State) : Result :=
  if s.resetting then .next s.resetBlock
  else
    match s.port with
    | .none => onEdge s id
    | .read _ => onEdge s id
    | .write k v => writeWord k v s
    | .narrow => .refused .narrowAccess

/-- A reset at this edge cuts the high time of the bit on DOUT short (70_reset_and_hazards R191, 90_conflicts C13). -/
def State.cutsPulse (s : State) : Bool :=
  s.resetting && s.mode == .led && decide (s.ph < highCycles Config.params (s.sr.getLsbD 23) - 1)

/-- The LED chain after it has sampled this cycle's level of DOUT; a pulse that a reset cuts short is marked until it is closed
(60_exceptions R176, 70_reset_and_hazards R191; log 22). -/
def State.chainSampled (s : State) : LedChain :=
  let c := s.chain.sample Config.params s.dout (s.tick + 1)
  { c with cut := c.cut || s.cutsPulse }

/-- The LED chain after this cycle (60_exceptions R176, 70_reset_and_hazards R191; log 24). -/
def State.chainNext (s : State) : LedChain := if s.resetting then s.chainSampled.markReset else s.chainSampled

/-- The end of a cycle: the host and the environment move on, the LED chain has seen the cycle's level of DOUT, and the cycle
is counted. `before` is the state in the cycle, `s` the block after its edge. -/
def endCycle (before s : State) : State :=
  { before.hostMoves s with
    envQ := before.envQ.tail
    chain := before.chainNext
    tick := before.tick + 1 }

/-- A block update with the end of its cycle; a stop stays a stop. -/
def withEndCycle (before : State) : Result → Result
  | .next t => .next (endCycle before t)
  | .fault f => .fault f
  | .refused r => .refused r

/-- One clock cycle of the whole machine. -/
def clockCycle (s : State) : Result := withEndCycle s (blockEdge s)

/-- The word of an instruction of nbits bits: every bit above nbits is 0. -/
def fetchWord (nbits w : Nat) : Word := BitVec.ofNat 32 (w % 2 ^ nbits)

/-- The host writes the word to CMD in this cycle, and RST is 0; everything else stays. -/
def State.presentWord (s : State) (w : Word) : State :=
  { s with hostQ := { rst := false, act := .access (.write HostReg.cmd.offset .word w) } :: s.hostQ.tail }

end Sys2Proof.Machine
end

