-- ==== Sys2Proof/Machine/Step.lean ====
section
/-! DEFINITION. One step is one clock cycle (10_state R44, R46). -/
namespace Sys2Proof.Machine

/-- One rising clock edge, with the inputs of its cycle. -/
def step (s : State) : Host.Outcome State Fault Refusal := clockCycle s

/-- The block fetches nothing (10_state R26): an instruction comes to run when the host writes its word to CMD, so this is the
state in which this cycle's host access is that write (log 1). -/
def State.withFetchWord (s : State) (nbits w : Nat) : State := s.presentWord (fetchWord nbits w)

end Sys2Proof.Machine
end

