-- ==== Sys2Proof/Safety.lean ====
section
/-! DEFINITION. What claims about the block speak of: the spec's fault reading and end of a run (60_exceptions R166, 00_scope
R23), its named premises (70_reset_and_hazards R194) and environment assumptions (60_exceptions R180 to R182), pulses
(41_bit_encoder R118), runs without reset, the I2C state graph (43_i2c_primitives R133, R134) and the machine's invariant. -/
namespace Sys2Proof.Machine

/-! ## Faulted states, ends of runs, named premises -/

/-- A state is faulted when STATUS.ERR = 1; the block itself keeps running (60_exceptions R166; log 17). -/
def State.faulted (s : State) : Prop := s.err = true

/-- A script entry that makes an access of its own: not a pause, and not the program's turn. -/
def HostAct.accesses : HostAct → Bool
  | .idle => false
  | .access a => a != .none
  | .program => false

/-- The host has issued its last access: no program statement is left, and no cycle left in the script makes an access
(00_scope R23). -/
def State.lastAccessIssued (s : State) : Prop := s.prog = [] ∧ ∀ c ∈ s.hostQ, c.act.accesses = false

/-- The host has issued its last access and BUSY = 0 (00_scope R23). -/
def State.runEnded (s : State) : Prop := s.lastAccessIssued ∧ s.busy = false

/-- A run that ended counts as good only with ERR = 0 (00_scope R23). -/
def State.goodEnd (s : State) : Prop := s.runEnded ∧ ¬ s.faulted

/-- The block is in ResetState (10_state R54): the premise Fresh, of a host that has made no access since
(70_reset_and_hazards R194). -/
def State.fresh (s : State) : Prop := s = { s.resetBlock with trace := s.trace, device := s.device }

/-- Quiet (70_reset_and_hazards R194). -/
def State.quiet (s : State) : Prop := s.mode = .idle ∧ s.err = false ∧ s.i2cState.midTransaction = false

/-- ChainLatched (70_reset_and_hazards R194): the chain has latched since the last reset (R192 step 5), and no pulse is
open. -/
def LedChain.latched (c : LedChain) : Prop := c.bad = false ∧ c.pending = [] ∧ c.high = 0 ∧ c.afterReset = false

/-! ## Runs -/

/-- n steps from s to t, none of them a reset, each from a state that meets p. -/
def RunsWhile (p : State → Bool) : Nat → State → State → Prop
  | 0, s, t => t = s
  | n + 1, s, t => p s = true ∧ s.resetting = false ∧ ∃ u, step s = .next u ∧ RunsWhile p n u t

/-- n steps from s to t without a reset. -/
def RunsNoReset (n : Nat) (s t : State) : Prop := RunsWhile (fun _ => true) n s t

/-- t is the end of the host program that starts in s, n cycles later: the first state in which the run has ended
(00_scope R23). -/
def endsAt : Nat → State → State → Prop
  | 0, s, t => t = s ∧ s.runEnded
  | n + 1, s, t => ¬ s.runEnded ∧ ∃ u, step s = .next u ∧ endsAt n u t

/-- A command can be accepted in this cycle: the sequencer is in a state the rules describe and BUSY = 0 (10_state R31, R49). -/
def State.ready (s : State) : Prop := s.seqOk = true ∧ s.busy = false

/-- The state at an acceptance, before the command's own effect: the command before it has ended, DONE is cleared, and
STOP_SENT has become IDLE (10_state R46 step 1, R49). Everything else is as in s. -/
def State.freed (s : State) : State :=
  { s with
    mode := .idle
    rem := if s.mode = .dly then 0 else s.rem
    done := false
    i2cState := s.i2cState.afterClear }

/-- The state after a rejection (10_state R49, 60_exceptions R162): everything the command does not touch is as in s. -/
def State.rejected (s : State) (code : ErrCode) : State :=
  { s.freed with
    mode := .dly, rem := 1, done := true, err := true, errCode := if s.err then s.errCode else code }

/-- The host writes the word of i to CMD in this cycle and RST is 0. -/
def State.presents (s : State) (i : Instr) : Prop := s.pins.rst = false ∧ s.port = .write 2 (encode i)

/-! ## Pulses on DOUT (41_bit_encoder R118) -/

/-- The waveform of a pulse (h, l): h high cycles, then l low ones. -/
def pulseLevels (h l : Nat) : List Bool := List.replicate h true ++ List.replicate l false

/-- The chain after sampling levels of consecutive cycles, the first with this serial number. -/
def LedChain.sampleAll (p : Params) : LedChain → List Bool → Nat → LedChain
  | c, [], _ => c
  | c, level :: rest, serial => LedChain.sampleAll p (c.sample p level serial) rest (serial + 1)

/-- The bits of a pixel in transmission order: R[7] first (42_pixel_streamer R120). -/
def pixelBitList (c : Pixel) : List Bool := (List.range pixelBits).map fun i => c.getLsbD (23 - i)

/-- The waveform of one pixel whose last bit is followed by `gap` extra low cycles (41_bit_encoder R116). -/
def pixelLevels (p : Params) (c : Pixel) (gap : Nat) : List Bool :=
  ((pixelBitList c).map fun b => pulseLevels (highCycles p b) (bitPeriod - highCycles p b)).flatten ++
    List.replicate gap false

/-- The waveform of pixels sent one after the other, each with its gap. -/
def frameLevels (p : Params) : List (Pixel × Nat) → List Bool
  | [] => []
  | (c, gap) :: rest => pixelLevels p c gap ++ frameLevels p rest

/-! ## The I2C state graph -/

/-- The transition table (43_i2c_primitives R133); none for a dash. -/
def phaseStep : I2cState → Phase → Option I2cState
  | .idle, .start => some .startSent
  | .startSent, .tx _ => some .addrSent
  | .addrSent, .tx _ => some .regSent
  | .regSent, .tx _ => some .dataSent
  | .regSent, .restart => some .restartSent
  | .dataSent, .stop => some .stopSent
  | .restartSent, .tx _ => some .addrSentRead
  | .addrSentRead, .rxb => some .dataReceived
  | .dataReceived, .nak => some .ackSent
  | .ackSent, .stop => some .stopSent
  | _, _ => none

/-- The state after phases in order, if the table has every transition. -/
def phasesFrom : I2cState → List Phase → Option I2cState
  | st, [] => some st
  | st, ph :: rest =>
    match phaseStep st ph with
    | some next => phasesFrom next rest
    | none => none

/-- The edges of the source's graph (43_i2c_primitives R134). -/
def i2cGraph : List (I2cState × I2cState) :=
  [(.idle, .startSent), (.startSent, .addrSent), (.addrSent, .regSent), (.regSent, .dataSent), (.dataSent, .stopSent),
   (.regSent, .restartSent), (.restartSent, .addrSentRead), (.addrSentRead, .dataReceived), (.dataReceived, .ackSent),
   (.ackSent, .stopSent), (.stopSent, .idle)]

/-- A bus event is one that a phase gives (43_i2c_primitives R129). -/
def Phase.gives (ph : Phase) (e : BusEvent) : Bool :=
  match e with
  | .s => ph == .start
  | .sr => ph == .restart
  | .w b _ => ph == .tx b
  | .r _ => ph == .rxb
  | .n => ph == .nak
  | .p => ph == .stop
  | .x => false

/-- Events that phases give, one each, in order. -/
def phasesGive : List Phase → List BusEvent → Bool
  | [], [] => true
  | ph :: phs, e :: es => ph.gives e && phasesGive phs es
  | _, _ => false

/-! ## The invariant of the machine -/

/-- What holds in every state a run from reset reaches: the ranges of 10_state R42 and R43, the flags of R32 and R33, the I2C
states of R35 and the graph of 43_i2c_primitives R133, the canonical form of the device's registers, and 64 cells. -/
structure State.Inv (s : State) : Prop where
  /-- The sequencer is in a state the rules describe (10_state R41 to R43, 30_encoding R211). -/
  seq : s.seqOk = true
  /-- PH is below BIT_PERIOD (10_state R42, 30_encoding R211). -/
  phase : s.ph < bitPeriod
  /-- BL is at most 24 (10_state R42). -/
  bits : s.bl ≤ pixelBits
  /-- PIDX is at most the length of PL, which is at most 8 (30_encoding R211). -/
  index : s.pidx ≤ s.pl.length ∧ s.pl.length ≤ 8
  /-- DONE is never set while BUSY = 1 (10_state R32). -/
  done_of_busy : s.busy = true → s.done = false
  /-- ERRCODE is NONE exactly when ERR = 0 (10_state R33, 60_exceptions R161). -/
  error_record : s.err = false ↔ s.errCode = .none
  /-- I2C_STATE is IDLE, and no I2C command runs, while I2C_EN = 0 (95_test_vectors 3.6). -/
  disabled : s.i2cEn = false → s.i2cState = .idle ∧ s.mode ≠ .i2c
  /-- XACT is 0 outside I2C mode (10_state R43, R46). -/
  transaction : s.xact = true → s.mode = .i2c
  /-- STOP_SENT waits for DONE to be cleared (10_state R35, R36). -/
  stop_sent : s.i2cState = .stopSent → s.done = true
  /-- DATA_RECEIVED is held only inside a command (95_test_vectors 3.6). -/
  data_received : s.i2cState = .dataReceived → s.mode = .i2c
  /-- The phases left follow the transition table, and a transaction command ends with STOP (43_i2c_primitives R131, R133). -/
  on_graph : s.mode = .i2c → ∃ last, phasesFrom s.i2cState (s.pl.drop s.pidx) = some last ∧ last ≠ .dataReceived ∧
    (s.xact = true → last = .stopSent)
  /-- A pulse is open for fewer than LATCH_CYCLES low cycles (60_exceptions R176; log 8). -/
  pulse_open : 0 < s.chain.high → s.chain.low < Config.params.latchCycles
  /-- Bits are pending only while a pulse is open: each bit is received as the next pulse opens, or at a latch
  (60_exceptions R176). -/
  pending_open : s.chain.high = 0 → s.chain.pending = []
  /-- REGS keeps its canonical form. -/
  regs : Memory.wf s.device.regs = true
  /-- DISP has 64 cells (60_exceptions R177). -/
  cells : s.chain.disp.length = cellsPerFrame

/-! ## The named environment assumptions (60_exceptions R180 to R182) -/

/-- The environment's draws in the k-th cycle from this one. -/
def State.envAt (s : State) (k : Nat) : EnvInput := (s.envQ[k]?).getD (EnvInput.drawn (s.tick + k))

/-- ENV_RESPONDS: from every cycle on, a phase completes within finitely many cycles (60_exceptions R182). -/
def State.envResponds (s : State) : Prop := ∀ k, ∃ m, k ≤ m ∧ (s.envAt m).done = true

/-- Whom the next byte sent on the bus is for. -/
inductive Addressed where
  /-- It is an address byte: a start or a repeated start came last. -/
  | byIt
  /-- The touch controller, address 0x28. -/
  | device
  /-- Another address, or none. -/
  | other
  deriving DecidableEq, Repr

/-- Every byte sent to 0x28 in these events is acknowledged; each start and each repeated start is followed by an address byte
of its own (43_i2c_primitives R145, 60_exceptions R182). -/
def acksFrom : Addressed → List BusEvent → Prop
  | _, [] => True
  | _, .s :: rest => acksFrom .byIt rest
  | _, .sr :: rest => acksFrom .byIt rest
  | _, .p :: rest => acksFrom .other rest
  | _, .x :: rest => acksFrom .other rest
  | .byIt, .w b k :: rest =>
    if b.extractLsb' 1 7 = devAddr then k = false ∧ acksFrom .device rest else acksFrom .other rest
  | .device, .w _ k :: rest => k = false ∧ acksFrom .device rest
  | .other, .w _ _ :: rest => acksFrom .other rest
  | a, .r _ :: rest => acksFrom a rest
  | a, .n :: rest => acksFrom a rest

/-- ENV_ACKS, of a bus trace: every TX phase addressed to 0x28 returned ack = 0 (60_exceptions R182). -/
def envAcks (trace : List BusEvent) : Prop := acksFrom .other trace

/-- The writes to register r, oldest first: the byte and whether it took. -/
def writesTo (r : Byte) (ops : List DevOp) : List (Byte × Bool) :=
  ops.filterMap fun
    | .write r' d took => if r' = r then some (d, took) else none
    | .read _ _ _ => none

/-- ENV_WRITE_TAKES: of MAP_REPEAT consecutive write transactions to the same (r, d), with no other write to r between, at
least one sets REGS[r] (60_exceptions R180). -/
def envWriteTakes (ops : List DevOp) : Prop :=
  ∀ (r d : Byte) (before : List (Byte × Bool)) (takes : List Bool) (after : List (Byte × Bool)),
    writesTo r ops = before ++ takes.map (fun took => (d, took)) ++ after →
      takes.length = mapRepeat → true ∈ takes

/-- REGS[r] after transactions, from a value before them (60_exceptions R180). -/
def regAfter (r : Byte) (start : Byte) : List DevOp → Byte
  | [] => start
  | .write r' d took :: rest => regAfter r (if r' = r ∧ took = true then d else start) rest
  | .read _ _ _ :: rest => regAfter r start rest

/-- How fresh a register's value reads (60_exceptions R181). -/
inductive Freshness where
  /-- No write transaction yet: a read is unconstrained. -/
  | unwritten
  /-- The last write transaction has not been followed by a read; `old` was the value before it. -/
  | unread (old : Byte)
  /-- The last write transaction has been followed by a read. -/
  | settled
  deriving DecidableEq, Repr

/-- A read of x under ENV_READ_FRESH, where the register holds v. -/
def Freshness.allows (f : Freshness) (v x : Byte) : Prop :=
  match f with
  | .unwritten => True
  | .unread old => x = v ∨ x = old
  | .settled => x = v

/-- Freshness after a read. -/
def Freshness.afterRead : Freshness → Freshness
  | .unwritten => .unwritten
  | .unread _ => .settled
  | .settled => .settled

/-- ENV_READ_FRESH for register r over transactions, oldest first, where r holds v before them. The byte of a read with a NACKed
address is any, and it is a read transaction of r all the same (60_exceptions R181; log 11). -/
def envReadFresh (r : Byte) : Byte → Freshness → List DevOp → Prop
  | _, _, [] => True
  | v, f, .write r' d took :: rest =>
    if r' = r then envReadFresh r (if took then d else v) (.unread v) rest else envReadFresh r v f rest
  | v, f, .read r' x acked :: rest =>
    if r' = r then (acked = true → f.allows v x) ∧ envReadFresh r v f.afterRead rest else envReadFresh r v f rest

/-! ## The launch premise Booted(k) (70_reset_and_hazards R194) -/

/-- The state was reached from Fresh by `setup(k)` with ENV_RESPONDS, whatever the host's pauses: `rest` is what the host program
goes on with. -/
def State.reachedBySetup (t : State) (k : BitVec 16) : Prop :=
  ∃ (s : State) (n : Nat) (rest : List HostStmt), s.fresh ∧ s.envResponds ∧ s.prog = setupProgram k ++ rest ∧
    (∀ c ∈ s.hostQ.take n, c.act.accesses = false) ∧ RunsNoReset n s t ∧ t.prog = rest

/-- Booted(k): reached so, and then what the rule says of the state; REGS[0x72] = 0xFF if ENV_WRITE_TAKES holds. -/
def State.booted (t : State) (k : BitVec 16) : Prop :=
  t.reachedBySetup k ∧
  t.i2cEn = true ∧ t.bitrate = k ∧ t.i2cState = .idle ∧ t.mode = .idle ∧ t.done = true ∧ t.err = false ∧
  (envWriteTakes t.device.log → t.device.reg mapReg = mapVal)

end Sys2Proof.Machine
end

