-- ==== Sys2Proof/Certificates/Slice0/Obligations.lean ====
section
/-! DEFINITION. The statements for the provers. Every statement about a state is about every state that meets its hypotheses,
whatever the host and the environment do (00_scope R22). -/
open Sys2Proof Sys2Proof.Machine

/-! ## Encoding -/

/-- 30_encoding R100: each worked command has the word the table gives, and the word decodes to it. -/
def Obligations.WorkedEncodings : Prop :=
  ∀ p ∈ ([(.emit0, 0x10000000), (.emit1, 0x20000000), (.wcolor 255 0 0, 0x30FF0000), (.wcolor 0x12 0x34 0x56, 0x30123456),
      (.dlys, 0x40000000), (.dlyl, 0x50000000), (.dlyn 10, 0x6000000A), (.dlyn 65535, 0x6000FFFF),
      (.i2cStart, 0x80000000), (.i2cRestart, 0x90000000), (.i2cStop, 0xA0000000), (.i2cTx 0x50, 0xB0000050),
      (.i2cTx 0x51, 0xB0000051), (.i2cRxn, 0xC0000000), (.i2cWreg 0x28 0x72 0xFF, 0xD02872FF),
      (.i2cRreg 0x28 0x72, 0xE0287200)] : List (Instr × Word)),
    encode p.1 = p.2 ∧ decode p.2 = .command p.1

/-- 30_encoding R79 to R86, R92: every command, with every operand at every value its field admits, decodes from its word. -/
def Obligations.DecodeOfEncode : Prop := ∀ i : Instr, decode (encode i) = .command i

/-- 30_encoding R91, R93: a word that decodes to a command is that command's word; no bit of it is ignored. -/
def Obligations.EncodeOfDecode : Prop := ∀ (w : Word) (i : Instr), decode w = .command i → encode i = w

/-- 30_encoding R92: a word decodes as the row of the opcode table it matches, and at most one row matches. -/
def Obligations.DecodeFollowsOpcodeTable : Prop :=
  (∀ w : Word, ∀ row ∈ opcodeTable,
    w &&& row.mask = row.pattern ↔ ∃ i, decode w = .command i ∧ i.mnemonic = row.name) ∧
  ∀ w : Word, ∀ row ∈ opcodeTable, ∀ row' ∈ opcodeTable,
    w &&& row.mask = row.pattern → w &&& row'.mask = row'.pattern → row = row'

/-- 30_encoding R89: a word with a reserved opcode decodes as ILLEGAL and is rejected with ILL. -/
def Obligations.ReservedOpcodesRejected : Prop :=
  ∀ w : Word, w.extractLsb' 28 4 ∈ [(0x0 : BitVec 4), 0x7, 0xF] →
    (∃ why, decode w = .illegal why) ∧ ∀ s : State, s.ready → runWord w s = .next (s.rejected .ill)

/-- 30_encoding R96: a line assembles exactly when it has its mnemonic's number of operands and each fits its field, and then to
the command with those operands, none of them truncated. -/
def Obligations.AssemblerNeverTruncates : Prop :=
  ∀ l : AsmLine, ((∃ i, l.assemble = some i) ↔ List.Forall₂ (fun x bound => x < bound) l.operands l.op.bounds) ∧
    ∀ i, l.assemble = some i → i.mnemonic = l.op ∧ i.operands = l.operands

/-! ## Reset and the host registers -/

/-- 10_state R54: at an edge with RST = 1 or a CTRL write with bit 1 = 1, whatever the state and the access, every piece of the
block's state takes its reset value and the outputs are DOUT = 0, SCL and SDA released, BUSY = 0. -/
def Obligations.ResetLoadsResetState : Prop :=
  ∀ s : State, (s.pins.rst = true ∨ ∃ v, s.port = .write 0 v ∧ v.getLsbD 1 = true) →
    ∃ t, step s = .next t ∧ t.i2cEn = false ∧ t.bitrate = 0 ∧ t.done = false ∧ t.err = false ∧ t.errCode = .none ∧
      t.nack = false ∧ t.i2cState = .idle ∧ t.rxdata = 0 ∧ t.mode = .idle ∧ t.sr = 0 ∧ t.ph = 0 ∧ t.bl = 0 ∧ t.rem = 0 ∧
      t.pl = [] ∧ t.pidx = 0 ∧ t.xact = false ∧ t.dout = false ∧ t.busLines = .released ∧ t.busy = false

/-- 10_state R46 step 0, R43; 70_reset_and_hazards R191: a reset appends X to the trace exactly where it abandons the bus,
appends nothing else, and leaves every device register as it is. -/
def Obligations.ResetAbandonsTheBus : Prop :=
  ∀ s : State, (s.pins.rst = true ∨ ∃ v, s.port = .write 0 v ∧ v.getLsbD 1 = true) →
    ∃ t, step s = .next t ∧ (∀ r, t.device.reg r = s.device.reg r) ∧
      ((s.mode = .i2c ∨ (s.i2cState ≠ .idle ∧ s.i2cState ≠ .stopSent)) → t.trace = s.trace ++ [.x]) ∧
      (s.mode ≠ .i2c → (s.i2cState = .idle ∨ s.i2cState = .stopSent) → t.trace = s.trace)

/-- 20_memory R63: what a host read returns, for every offset of the window; the read itself changes no state. -/
def Obligations.ReadReturnsRegisterValue : Prop :=
  (∀ (s : State) (k : BitVec 3), s.port = .read k → s.hrdata = some (s.regValue k)) ∧
  (∀ (s : State) (k : BitVec 3), s.pins.rst = false → s.port = .read k → s.seqOk = true →
    blockEdge s = .next s.advance) ∧
  ∀ s : State,
    s.regValue 0 = (if s.i2cEn then 1 else 0) ∧
    s.regValue 1 = (s.i2cState.code.setWidth 32 <<< 8) ||| (s.errCode.code.setWidth 32 <<< 4) |||
      (if s.nack then 8 else 0) ||| (if s.err then 4 else 0) ||| (if s.done then 2 else 0) ||| (if s.busy then 1 else 0) ∧
    s.regValue 2 = 0 ∧ (s.regValue 3).toNat = s.rxdata.toNat ∧ (s.regValue 4).toNat = s.bitrate.toNat ∧
    s.regValue 5 = 0 ∧ s.regValue 6 = 0 ∧ s.regValue 7 = 0

/-- 10_state R40: a read returns the value at the start of its cycle, and its edge is the edge of a cycle with no access. -/
def Obligations.ReadsHaveNoSideEffect : Prop :=
  ∀ (s : State) (k : BitVec 3), s.pins.rst = false → s.port = .read k →
    s.hrdata = some (s.regValue k) ∧
    ∀ u : State, u = { s with hostQ := { rst := false, act := .idle } :: s.hostQ.tail } → s.seqOk = true →
      blockEdge s = .next s.advance ∧ blockEdge u = .next { s.advance with hostQ := u.hostQ }

/-- 20_memory R66: a byte, halfword or misaligned access is refused. -/
def Obligations.NarrowAccessRefused : Prop :=
  ∀ (s : State) (off : BitVec 5) (size : AccessSize) (v : Word), s.pins.rst = false →
    (s.access = .read off size ∨ s.access = .write off size v) → (size ≠ .word ∨ off.toNat % 4 ≠ 0) →
    step s = .refused .narrowAccess

/-- 20_memory R65: reserved offsets read zero and ignore writes; reserved bits read zero and are ignored when written. -/
def Obligations.ReservedBitsAndOffsets : Prop :=
  (∀ s : State, (∀ k : BitVec 3, 5 ≤ k.toNat → s.regValue k = 0) ∧ (s.regValue 0).toNat < 2 ∧
    (s.regValue 1).getLsbD 7 = false ∧ (s.regValue 1).toNat < 2 ^ 12 ∧ (s.regValue 3).toNat < 2 ^ 8 ∧
    (s.regValue 4).toNat < 2 ^ 16) ∧
  (∀ (s : State) (k : BitVec 3) (v : Word), (k = 3 ∨ 5 ≤ k.toNat) → s.seqOk = true →
    writeWord k v s = .next s.advance) ∧
  (∀ (s : State) (v v' : Word), v.getLsbD 0 = v'.getLsbD 0 → writeWord 0 v s = writeWord 0 v' s) ∧
  (∀ (s : State) (v v' : Word), v.getLsbD 1 = v'.getLsbD 1 → writeWord 1 v s = writeWord 1 v' s) ∧
  ∀ (s : State) (v v' : Word), v.setWidth 16 = v'.setWidth 16 → writeWord 4 v s = writeWord 4 v' s

/-- 10_state R28, R29, R46 step 2: a CTRL write with bit 1 = 0. While BUSY it is an overrun; otherwise it sets I2C_EN, and
clearing I2C_EN makes I2C_STATE IDLE, with event X unless it was IDLE or STOP_SENT. Nothing else changes. -/
def Obligations.CtrlWriteConfigures : Prop :=
  ∀ (s : State) (v : Word), s.pins.rst = false → s.port = .write 0 v → v.getLsbD 1 = false → s.seqOk = true →
    (s.busy = true → blockEdge s = .next (s.advance.raise .ovr)) ∧
    (s.busy = false → v.getLsbD 0 = true → blockEdge s = .next { s.advance with i2cEn := true }) ∧
    (s.busy = false → v.getLsbD 0 = false → (s.i2cState = .idle ∨ s.i2cState = .stopSent) →
      blockEdge s = .next { s.advance with i2cEn := false, i2cState := .idle }) ∧
    (s.busy = false → v.getLsbD 0 = false → s.i2cState ≠ .idle → s.i2cState ≠ .stopSent →
      ∃ dev : TouchController, (∀ r, dev.reg r = s.device.reg r) ∧
        blockEdge s =
          .next { s.advance with i2cEn := false, i2cState := .idle, trace := s.trace ++ [.x], device := dev })

/-- 10_state R36: a STATUS write with bit 1 = 1 clears DONE unless DONE is set at the same edge, and then STOP_SENT becomes
IDLE; every other bit is ignored, and it never raises OVR. -/
def Obligations.StatusWriteClearsDone : Prop :=
  ∀ (s : State) (v : Word), s.pins.rst = false → s.port = .write 1 v → s.seqOk = true →
    (v.getLsbD 1 = false → blockEdge s = .next s.advance) ∧
    (v.getLsbD 1 = true → s.advance.done = true → s.done = false → blockEdge s = .next s.advance) ∧
    (v.getLsbD 1 = true → ¬ (s.advance.done = true ∧ s.done = false) →
      ∃ t, blockEdge s = .next t ∧ t = { s.advance with done := false, i2cState := t.i2cState } ∧
        (s.advance.i2cState = .stopSent → t.i2cState = .idle) ∧
        (s.advance.i2cState ≠ .stopSent → t.i2cState = s.advance.i2cState))

/-- 10_state R39: a BITRATE write keeps bits 15:0 of the value while BUSY = 0 and is an overrun while BUSY = 1. -/
def Obligations.BitrateWrite : Prop :=
  ∀ (s : State) (v : Word), s.pins.rst = false → s.port = .write 4 v → s.seqOk = true →
    (s.busy = true → blockEdge s = .next (s.advance.raise .ovr)) ∧
    (s.busy = false → blockEdge s = .next { s.advance with bitrate := v.setWidth 16 })

/-! ## Errors -/

/-- 10_state R33: raising an error records it only where none is recorded, and no step without a reset clears or changes a
recorded error. -/
def Obligations.FirstErrorIsKept : Prop :=
  (∀ (s : State) (code : ErrCode), (s.err = false → s.raise code = { s with err := true, errCode := code }) ∧
    (s.err = true → s.raise code = s)) ∧
  ∀ s t : State, step s = .next t → s.resetting = false → s.err = true → t.err = true ∧ t.errCode = s.errCode

/-- 60_exceptions R160: a step that records an error does so at one of the listed places, with its code. -/
def Obligations.ErrorsOnlyWhereListed : Prop :=
  ∀ s t : State, step s = .next t → s.err = false → t.err = true →
    (s.busy = true ∧ t.errCode = .ovr ∧
      ((∃ w, s.port = .write 2 w) ∨ (∃ v, s.port = .write 4 v) ∨ ∃ v, s.port = .write 0 v ∧ v.getLsbD 1 = false)) ∨
    (s.busy = false ∧ ∃ w, s.port = .write 2 w ∧
      ((t.errCode = .ill ∧ ∃ why, decode w = .illegal why) ∨
       (∃ i, decode w = .command i ∧ i.family = .i2c ∧
         ((t.errCode = .dis ∧ s.i2cEn = false) ∨ (t.errCode = .seq ∧ s.i2cEn = true)))))

/-- 60_exceptions R163: an overrun, by any command, any word written to CMD, a CTRL write with bit 1 = 0 or a BITRATE write,
leaves everything about the active command as it was: the edge is the one of a cycle without an access, and only the error
record changes. -/
def Obligations.OverrunChangesOnlyTheErrorRecord : Prop :=
  ∀ s : State, s.seqOk = true → s.busy = true →
    (∀ i : Instr, exec i s = .next (s.advance.raise .ovr)) ∧
    (s.pins.rst = false → s.port = .none → blockEdge s = .next s.advance) ∧
    ∀ (k : BitVec 3) (v : Word), s.pins.rst = false → s.port = .write k v →
      (k = 2 ∨ k = 4 ∨ (k = 0 ∧ v.getLsbD 1 = false)) → blockEdge s = .next (s.advance.raise .ovr)

/-- 60_exceptions R164, 10_state R49: the checks of a CMD write run in the order OVR, ILL, DIS, SEQ: OVR for any word while
BUSY, then ILL for an ILLEGAL word whatever I2C_EN and I2C_STATE are, then DIS for an I2C command whatever I2C_STATE is. -/
def Obligations.ErrorPriority : Prop :=
  ∀ (w : Word) (s : State), s.seqOk = true →
    (s.busy = true → runWord w s = .next (s.advance.raise .ovr)) ∧
    (s.busy = false → (∃ why, decode w = .illegal why) → runWord w s = .next (s.rejected .ill)) ∧
    (s.busy = false → ∀ i, decode w = .command i → i.family = .i2c → s.i2cEn = false →
      runWord w s = .next (s.rejected .dis))

/-- 43_i2c_primitives R132: an I2C command that its row of the table does not allow in the state after the DONE clear is
rejected with SEQ. -/
def Obligations.OutOfSequenceRejected : Prop :=
  ∀ s : State, s.ready → s.i2cEn = true →
    (s.freed.i2cState ≠ .idle →
      exec .i2cStart s = .next (s.rejected .seq) ∧ (∀ a r d, exec (.i2cWreg a r d) s = .next (s.rejected .seq)) ∧
      ∀ a r, exec (.i2cRreg a r) s = .next (s.rejected .seq)) ∧
    (s.freed.i2cState ≠ .regSent → exec .i2cRestart s = .next (s.rejected .seq)) ∧
    (s.freed.i2cState ≠ .dataSent → s.freed.i2cState ≠ .ackSent → exec .i2cStop s = .next (s.rejected .seq)) ∧
    (∀ b : Byte, s.freed.i2cState ≠ .addrSent → s.freed.i2cState ≠ .regSent →
      ¬ (s.freed.i2cState = .startSent ∧ b.getLsbD 0 = false) →
      ¬ (s.freed.i2cState = .restartSent ∧ b.getLsbD 0 = true) → exec (.i2cTx b) s = .next (s.rejected .seq)) ∧
    (s.freed.i2cState ≠ .addrSentRead → exec .i2cRxn s = .next (s.rejected .seq))

/-! ## What each command does at its acceptance, with its frame: everything not named is as in `s.freed`, and so as in s -/

/-- 41_bit_encoder R113, R114: EMIT0 and EMIT1 load one bit. They are accepted whatever I2C_EN and I2C_STATE are. -/
def Obligations.EmitCommandsStart : Prop :=
  ∀ s : State, s.ready →
    exec .emit0 s = .next { s.freed with mode := .led, sr := 0x000000, ph := 0, bl := 1 } ∧
    exec .emit1 s = .next { s.freed with mode := .led, sr := 0x800000, ph := 0, bl := 1 }

/-- 42_pixel_streamer R120: WCOLOR loads SR with w[23:0], and bit i in transmission order is SR[23 − i]: R[7..0], G[7..0],
B[7..0]. -/
def Obligations.WcolorLoadsThePixel : Prop :=
  ∀ (r g b : Byte) (s : State), s.ready →
    ∃ sr0 : Pixel, exec (.wcolor r g b) s = .next { s.freed with mode := .led, sr := sr0, ph := 0, bl := 24 } ∧
      sr0 = (encode (.wcolor r g b)).extractLsb' 0 24 ∧
      ∀ i < 8, sr0.getLsbD (23 - i) = r.getLsbD (7 - i) ∧ sr0.getLsbD (23 - (8 + i)) = g.getLsbD (7 - i) ∧
        sr0.getLsbD (23 - (16 + i)) = b.getLsbD (7 - i)

/-- 40_cycle_delay R105 to R107: the delays load REM with SHORT_CYCLES, LONG_CYCLES and N × SHORT_CYCLES (1 for N = 0); DONE is
set at once where that is 1. -/
def Obligations.DelayCommandsStart : Prop :=
  ∀ s : State, s.ready →
    exec .dlys s = .next { s.freed with
      mode := .dly, rem := Config.params.shortCycles, done := decide (Config.params.shortCycles = 1) } ∧
    exec .dlyl s = .next { s.freed with
      mode := .dly, rem := Config.params.longCycles, done := decide (Config.params.longCycles = 1) } ∧
    exec (.dlyn 0) s = .next { s.freed with mode := .dly, rem := 1, done := true } ∧
    ∀ n : BitVec 16, n ≠ 0 → exec (.dlyn n) s = .next { s.freed with
      mode := .dly, rem := n.toNat * Config.params.shortCycles
      done := decide (n.toNat * Config.params.shortCycles = 1) }

/-- 43_i2c_primitives R131, R132, R137 to R146: each primitive command, where it is enabled and legal, starts its phases. -/
def Obligations.I2cPrimitivesStart : Prop :=
  ∀ s : State, s.ready → s.i2cEn = true →
    (s.freed.i2cState = .idle → exec .i2cStart s =
      .next { s.freed with mode := .i2c, pl := [.start], pidx := 0, xact := false, nack := false }) ∧
    (s.freed.i2cState = .regSent → exec .i2cRestart s =
      .next { s.freed with mode := .i2c, pl := [.restart], pidx := 0, xact := false, nack := false }) ∧
    (s.freed.i2cState = .dataSent ∨ s.freed.i2cState = .ackSent → exec .i2cStop s =
      .next { s.freed with mode := .i2c, pl := [.stop], pidx := 0, xact := false, nack := false }) ∧
    (∀ b : Byte, (s.freed.i2cState = .startSent ∧ b.getLsbD 0 = false) ∨ s.freed.i2cState = .addrSent ∨
        s.freed.i2cState = .regSent ∨ (s.freed.i2cState = .restartSent ∧ b.getLsbD 0 = true) →
      exec (.i2cTx b) s =
        .next { s.freed with mode := .i2c, pl := [.tx b], pidx := 0, xact := false, nack := false }) ∧
    (s.freed.i2cState = .addrSentRead → exec .i2cRxn s =
      .next { s.freed with mode := .i2c, pl := [.rxb, .nak], pidx := 0, xact := false, nack := false })

/-- 44_i2c_transactions R152, R154, 43_i2c_primitives R131: the transaction commands, enabled and in IDLE (STOP_SENT counts:
the acceptance clears it first), start their phases, with the address bytes 2a and 2a + 1. -/
def Obligations.I2cTransactionsStart : Prop :=
  ∀ (a : BitVec 7) (r d : Byte) (s : State), s.ready → s.i2cEn = true →
    (s.i2cState = .idle ∨ s.i2cState = .stopSent) →
    ∃ aw ar : Byte, aw.toNat = 2 * a.toNat ∧ ar.toNat = 2 * a.toNat + 1 ∧
      exec (.i2cWreg a r d) s = .next { s.freed with
        mode := .i2c, pl := [.start, .tx aw, .tx r, .tx d, .stop], pidx := 0, xact := true, nack := false } ∧
      exec (.i2cRreg a r) s = .next { s.freed with
        mode := .i2c, pl := [.start, .tx aw, .tx r, .restart, .tx ar, .rxb, .nak, .stop]
        pidx := 0, xact := true, nack := false }

/-! ## The step -/

/-- 10_state R37, R46, R49: a CMD write of a word that decodes to i makes the step the meaning of i, and around it the step adds
only the end of the cycle: the scripts and the host program move on, the chain samples this cycle's DOUT, the cycle is
counted. -/
def Obligations.StepRunsTheDecodedCommand : Prop :=
  ∀ (s : State) (w : Word) (i : Instr), s.pins.rst = false → s.port = .write 2 w → decode w = .command i →
    step s = withEndCycle s (exec i s) ∧
    ∀ t, exec i s = .next t → step s = .next { t with
      hostQ := s.hostQ.tail, prog := if s.pins.act = .program then s.prog.tail else s.prog, vars := s.vars, envQ := s.envQ.tail
      chain := s.chain.sample Config.params s.dout (s.tick + 1), tick := s.tick + 1 }

/-- The model's choice (log 1): withFetchWord makes the very next step run the command whose word it is given. -/
def Obligations.PresentedWordRuns : Prop :=
  ∀ (s : State) (i : Instr),
    step (s.withFetchWord 32 (encode i).toNat) =
      withEndCycle (s.withFetchWord 32 (encode i).toNat) (exec i (s.withFetchWord 32 (encode i).toNat))

/-! ## The invariant -/

/-- The invariant holds at reset. -/
def Obligations.InvariantAtReset : Prop := State.reset.Inv

/-- Every step keeps the invariant: the ranges of PH, BL, PIDX and REM, DONE against BUSY, the error record, the disabled
master, the I2C graph, the canonical form of the device's registers, an open pulse's low time below LATCH_CYCLES, bits pending only while a
pulse is open
(10_state R31 to R35, R42, R43; 30_encoding R211; 60_exceptions R176; the cycle of the latch is the model's reading, log 8). -/
def Obligations.InvariantKeptByEveryStep : Prop := ∀ s t : State, s.Inv → step s = .next t → t.Inv

/-- Under the invariant a step never faults, and it is refused only for a narrow access without reset (20_memory R66; 60_exceptions
R159: no condition stops the block). -/
def Obligations.OnlyNarrowAccessesStop : Prop :=
  ∀ s : State, s.Inv → (∃ t, step s = .next t) ∨
    (step s = .refused .narrowAccess ∧ s.resetting = false ∧ s.port = .narrow)

/-! ## Waveforms and delays, for every host and environment -/

/-- 00_scope R11: the pulse invariant of this implementation's parameters. -/
def Obligations.PulseInvariant : Prop :=
  Config.params.t0h + Config.params.t0l = bitPeriod ∧ Config.params.t1h + Config.params.t1l = bitPeriod ∧
  Config.params.t0h < Config.params.t1h ∧ Config.params.t0h < Config.params.t0l ∧ Config.params.t1l < Config.params.t1h ∧
  bitPeriod = 20

/-- 41_bit_encoder R111, R113 to R115: for EMIT0 and EMIT1 accepted at the step from s to t, DOUT in the n-th active cycle is
high exactly for the first TH(b) of the 20 cycles, BUSY is 1 in all but the last, DONE is 1 in the last only, whatever the host
and the environment do short of a reset. -/
def Obligations.EmitWaveform : Prop :=
  ∀ (b : Bool) (s t u : State) (n : Nat), s.ready → s.presents (if b then .emit1 else .emit0) → step s = .next t →
    RunsNoReset n t u → n < 20 →
    u.dout = decide (n < if b then Config.params.t1h else Config.params.t0h) ∧ u.busy = decide (n < 19) ∧
    u.done = decide (n = 19)

/-- 42_pixel_streamer R121: one WCOLOR sends 24 contiguous bit slots of 20 cycles, slot i with the bit SR0[23 − i], and its final
cycle is the 480th; PH counts the cycles of a slot, SR is shifted and BL decremented once per finished slot; BUSY and DONE
follow. It holds whatever the host and the environment do short of a reset (41_bit_encoder R115). -/
def Obligations.WcolorWaveform : Prop :=
  ∀ (r g b : Byte) (s t u : State) (n : Nat), s.ready → s.presents (.wcolor r g b) → step s = .next t →
    RunsNoReset n t u → n < 480 →
    u.dout = decide (n % 20 <
      if (r ++ g ++ b : Pixel).getLsbD (23 - n / 20) then Config.params.t1h else Config.params.t0h) ∧
    u.busy = decide (n < 479) ∧ u.done = decide (n = 479) ∧ u.final = decide (n = 479) ∧
    u.sr = (r ++ g ++ b : Pixel) <<< (n / 20) ∧ u.ph = n % 20 ∧ u.bl = 24 - n / 20

/-- 40_cycle_delay R105 to R107, 10_state R50: a delay command accepted at the step from s to t holds the block for D cycles with
DOUT low: BUSY is 1 in all but the last, DONE is 1 in the last only. -/
def Obligations.DelayTimeline : Prop :=
  ∀ (i : Instr) (D : Nat),
    ((i = .dlys ∧ D = Config.params.shortCycles) ∨ (i = .dlyl ∧ D = Config.params.longCycles) ∨
      ∃ k : BitVec 16, i = .dlyn k ∧ D = if k = 0 then 1 else k.toNat * Config.params.shortCycles) →
    ∀ (s t u : State) (n : Nat), s.ready → s.presents i → step s = .next t → RunsNoReset n t u → n < D →
      u.dout = false ∧ u.mode = .dly ∧ u.rem = D - n ∧ u.busy = decide (n + 1 < D) ∧ u.done = decide (n + 1 = D)

/-- 10_state R50: a command that drives DOUT or delays gives MODE IDLE in the cycle after its final cycle, unless a command is
accepted at its last edge. -/
def Obligations.IdleAfterTheFinalCycle : Prop :=
  ∀ s t : State, s.final = true → s.seqOk = true → s.resetting = false → (∀ w, s.port ≠ .write 2 w) →
    step s = .next t → t.mode = .idle ∧ t.done = (s.done && !(match s.port with
      | .write k v => k == 1 && v.getLsbD 1
      | _ => false))

/-! ## The I2C master -/

/-- 43_i2c_primitives R130, R144: what the completion of each phase but a command's last does, by the state
before it. -/
def Obligations.PhaseCompletion : Prop :=
  ∀ (s : State) (ph : Phase), s.mode = .i2c → s.env.done = true → s.pl[s.pidx]? = some ph →
    s.pidx + 1 < s.pl.length →
    s.advance.pidx = s.pidx + 1 ∧ s.advance.mode = .i2c ∧ s.advance.done = s.done ∧ s.advance.pl = s.pl ∧
    (ph = .start → s.advance.i2cState = .startSent ∧ s.advance.trace = s.trace ++ [.s]) ∧
    (ph = .restart → s.advance.i2cState = .restartSent ∧ s.advance.trace = s.trace ++ [.sr]) ∧
    (∀ b, ph = .tx b → s.advance.trace = s.trace ++ [.w b s.env.ack] ∧ s.advance.nack = (s.nack || s.env.ack) ∧
      (s.i2cState = .startSent → s.advance.i2cState = .addrSent) ∧
      (s.i2cState = .addrSent → s.advance.i2cState = .regSent) ∧
      (s.i2cState = .regSent → s.advance.i2cState = .dataSent) ∧
      (s.i2cState = .restartSent → s.advance.i2cState = .addrSentRead)) ∧
    (ph = .rxb → s.advance.i2cState = .dataReceived ∧ s.advance.rxdata = s.env.rx ∧
      s.advance.trace = s.trace ++ [.r s.env.rx]) ∧
    (ph = .nak → s.advance.i2cState = .ackSent ∧ s.advance.trace = s.trace ++ [.n]) ∧
    (ph = .stop → s.advance.i2cState = .stopSent ∧ s.advance.trace = s.trace ++ [.p]) ∧
    ((∀ b, ph ≠ .tx b) → s.advance.nack = s.nack) ∧ (ph ≠ .rxb → s.advance.rxdata = s.rxdata)

/-- 43_i2c_primitives R130, R142, R144; 44_i2c_transactions R153; 10_state R46 step 1: the completion of a
command's last phase ends the command with DONE set; a primitive command leaves the state its last phase gives, a transaction
command leaves IDLE; nothing outside the I2C master and DONE changes. -/
def Obligations.LastPhaseEndsTheCommand : Prop :=
  ∀ (s : State) (ph : Phase), s.mode = .i2c → s.env.done = true → s.pl[s.pidx]? = some ph →
    s.pidx + 1 = s.pl.length →
    s.advance.mode = .idle ∧ s.advance.done = true ∧ s.advance.busy = false ∧ s.advance.xact = false ∧
    (s.xact = true → s.advance.i2cState = .idle) ∧
    (s.xact = false →
      (ph = .start → s.advance.i2cState = .startSent) ∧ (ph = .restart → s.advance.i2cState = .restartSent) ∧
      (ph = .rxb → s.advance.i2cState = .dataReceived) ∧ (ph = .nak → s.advance.i2cState = .ackSent) ∧
      (ph = .stop → s.advance.i2cState = .stopSent) ∧
      ∀ b, ph = .tx b →
        (s.i2cState = .startSent → s.advance.i2cState = .addrSent) ∧
        (s.i2cState = .addrSent → s.advance.i2cState = .regSent) ∧
        (s.i2cState = .regSent → s.advance.i2cState = .dataSent) ∧
        (s.i2cState = .restartSent → s.advance.i2cState = .addrSentRead)) ∧
    (∃ event, s.advance.trace = s.trace ++ [event] ∧ ph.gives event = true) ∧
    ((∀ b, ph ≠ .tx b) → s.advance.nack = s.nack) ∧ (∀ b, ph = .tx b → s.advance.nack = (s.nack || s.env.ack)) ∧
    s.advance.rxdata = (if ph = .rxb then s.env.rx else s.rxdata) ∧
    s.advance.i2cEn = s.i2cEn ∧ s.advance.bitrate = s.bitrate ∧ s.advance.err = s.err ∧ s.advance.errCode = s.errCode ∧
    s.advance.sr = s.sr ∧ s.advance.ph = s.ph ∧ s.advance.bl = s.bl ∧ s.advance.rem = s.rem ∧ s.advance.chain = s.chain

/-- 43_i2c_primitives R136: while the environment completes no phase, for any number of cycles and whatever the host does short
of a reset, MODE stays I2C, BUSY stays 1, and the I2C master does not move; a reset ends the command. -/
def Obligations.NoTimeout : Prop :=
  (∀ s t : State, s.mode = .i2c → s.resetting = true → step s = .next t → t.mode = .idle) ∧
  ∀ (n : Nat) (s u : State), s.Inv → s.mode = .i2c →
    RunsWhile (fun x => !x.env.done) n s u →
    u.mode = .i2c ∧ u.busy = true ∧ u.pidx = s.pidx ∧ u.pl = s.pl ∧ u.i2cState = s.i2cState ∧ u.trace = s.trace ∧
    u.nack = s.nack ∧ u.rxdata = s.rxdata

/-- 43_i2c_primitives R134: under the invariant a step moves I2C_STATE along an edge of the source's graph, or leaves it, or
ends a transaction command in IDLE, or takes one of the two exits to IDLE: reset, and clearing I2C_EN. -/
def Obligations.I2cStateFollowsTheGraph : Prop :=
  ∀ s t : State, s.Inv → step s = .next t →
    t.i2cState = s.i2cState ∨ (s.i2cState, t.i2cState) ∈ i2cGraph ∨
    (s.xact = true ∧ (s.i2cState = .dataSent ∨ s.i2cState = .ackSent) ∧ t.i2cState = .idle ∧ t.mode = .idle) ∨
    (s.resetting = true ∧ t.i2cState = .idle) ∨
    (∃ v, s.port = .write 0 v ∧ v.getLsbD 0 = false ∧ t.i2cState = .idle ∧ t.i2cEn = false)

/-- 43_i2c_primitives R129, R130: from an I2C command's start on, the trace gains exactly the events of its finished phases, one
each, in list order: those before PIDX while it runs, all of them when it ends. -/
def Obligations.CommandEmitsItsPhasesInOrder : Prop :=
  ∀ (n : Nat) (t u : State), t.mode = .i2c → t.pidx = 0 → RunsWhile (fun x => x.mode == .i2c) n t u →
    (u.mode = .i2c → u.pl = t.pl ∧
      ∃ events, u.trace = t.trace ++ events ∧ phasesGive (t.pl.take u.pidx) events = true) ∧
    (u.mode ≠ .i2c → ∃ events, u.trace = t.trace ++ events ∧ phasesGive t.pl events = true)

/-- 44_i2c_transactions R152: a finished I2C_WREG has put the write frame on the bus, whatever the acknowledge bits and the phase
durations were, and ends in IDLE with DONE and with NACK the OR of the acknowledge bits; RXDATA is unchanged. -/
def Obligations.WregBusFrame : Prop :=
  ∀ (a : BitVec 7) (r d : Byte) (n : Nat) (s t u : State), s.ready → s.i2cEn = true →
    (s.i2cState = .idle ∨ s.i2cState = .stopSent) → s.presents (.i2cWreg a r d) → step s = .next t →
    RunsWhile (fun x => x.mode == .i2c) n t u → u.mode ≠ .i2c →
    ∃ k1 k2 k3 : Bool,
      u.trace = s.trace ++ [.s, .w (a ++ (0 : BitVec 1)) k1, .w r k2, .w d k3, .p] ∧
      u.nack = (k1 || k2 || k3) ∧ u.i2cState = .idle ∧ u.done = true ∧ u.mode = .idle ∧ u.rxdata = s.rxdata

/-- 44_i2c_transactions R154, R155: a finished I2C_RREG has put the read frame on the bus, with a repeated start and no STOP
between the register select and the data phase; RXDATA holds the byte the device supplied. -/
def Obligations.RregBusFrame : Prop :=
  ∀ (a : BitVec 7) (r : Byte) (n : Nat) (s t u : State), s.ready → s.i2cEn = true →
    (s.i2cState = .idle ∨ s.i2cState = .stopSent) → s.presents (.i2cRreg a r) → step s = .next t →
    RunsWhile (fun x => x.mode == .i2c) n t u → u.mode ≠ .i2c →
    ∃ (k1 k2 k3 : Bool) (x : Byte),
      u.trace = s.trace ++
        [.s, .w (a ++ (0 : BitVec 1)) k1, .w r k2, .sr, .w (a ++ (1 : BitVec 1)) k3, .r x, .n, .p] ∧
      u.nack = (k1 || k2 || k3) ∧ u.i2cState = .idle ∧ u.done = true ∧ u.mode = .idle ∧ u.rxdata = x

/-- 44_i2c_transactions R152 (its example): with every phase taking one cycle and no other access, I2C_WREG accepted in one
cycle has ended five cycles later. -/
def Obligations.WregEndsInFiveCycles : Prop :=
  ∀ (a : BitVec 7) (r d : Byte) (s : State) (e0 e1 e2 e3 e4 e5 : EnvInput) (es : List EnvInput),
    s.ready → s.i2cEn = true → s.i2cState = .idle → s.prog = [] →
    s.hostQ = [{ rst := false, act := .access (.write 0x08 .word (encode (.i2cWreg a r d))) }] →
    s.envQ = e0 :: e1 :: e2 :: e3 :: e4 :: e5 :: es →
    e1.done = true → e2.done = true → e3.done = true → e4.done = true → e5.done = true →
    ∃ u, core.run 6 s = .next u ∧ u.mode = .idle ∧ u.done = true ∧ u.i2cState = .idle ∧
      u.nack = (e2.ack || e3.ack || e4.ack) ∧
      u.trace = s.trace ++ [.s, .w (a ++ (0 : BitVec 1)) e2.ack, .w r e3.ack, .w d e4.ack, .p]

/-- 44_i2c_transactions R154 (its example): with every phase taking one cycle and no other access, I2C_RREG has ended eight
cycles later, and RXDATA holds the byte drawn in the sixth. -/
def Obligations.RregEndsInEightCycles : Prop :=
  ∀ (a : BitVec 7) (r : Byte) (s : State) (e0 e1 e2 e3 e4 e5 e6 e7 e8 : EnvInput) (es : List EnvInput),
    s.ready → s.i2cEn = true → s.i2cState = .idle → s.prog = [] →
    s.hostQ = [{ rst := false, act := .access (.write 0x08 .word (encode (.i2cRreg a r))) }] →
    s.envQ = e0 :: e1 :: e2 :: e3 :: e4 :: e5 :: e6 :: e7 :: e8 :: es →
    e1.done = true → e2.done = true → e3.done = true → e4.done = true → e5.done = true → e6.done = true →
    e7.done = true → e8.done = true →
    ∃ u, core.run 9 s = .next u ∧ u.mode = .idle ∧ u.done = true ∧ u.i2cState = .idle ∧ u.rxdata = e6.rx ∧
      u.nack = (e2.ack || e3.ack || e5.ack)

/-- 10_state R34: without a reset NACK changes only at the acceptance of an I2C command, to 0, and at the completion of a TX
phase, to NACK OR ack. -/
def Obligations.NackChangesOnlyAsRuled : Prop :=
  ∀ s t : State, step s = .next t → s.resetting = false → t.nack ≠ s.nack →
    (t.nack = false ∧ t.mode = .i2c ∧ s.busy = false ∧
      ∃ w i, s.port = .write 2 w ∧ decode w = .command i ∧ i.family = .i2c) ∨
    (s.mode = .i2c ∧ s.env.done = true ∧ (∃ b, s.pl[s.pidx]? = some (.tx b)) ∧ t.nack = (s.nack || s.env.ack))

/-- 10_state R38: without a reset RXDATA changes only at the completion of an RXB phase, to the byte the environment drew. -/
def Obligations.RxdataChangesOnlyAtRxb : Prop :=
  ∀ s t : State, step s = .next t → s.resetting = false → t.rxdata ≠ s.rxdata →
    s.mode = .i2c ∧ s.env.done = true ∧ s.pl[s.pidx]? = some .rxb ∧ t.rxdata = s.env.rx

/-! ## The touch controller -/

/-- 60_exceptions R180: after a write transaction to (r, d) the register holds d or what it held before, every other register is
unchanged, and the write is idempotent. Two clauses are the model's choice: that the draw `take` of the cycle of the `P` says
which of the two it is (log 10), and that the device keeps a record of finished transactions, which gains this one (log 12). -/
def Obligations.WriteTransactionTakesOrNot : Prop :=
  ∀ (dev : TouchController) (r d : Byte) (k1 k2 k3 take : Bool) (t1 t2 t3 t4 : Bool), ∀ after : TouchController,
    after = ((((dev.hear .s t1).hear (.w 0x50 k1) t2).hear (.w r k2) t3).hear (.w d k3) t4).hear .p take →
    (after.reg r = d ∨ after.reg r = dev.reg r) ∧ (take = true → after.reg r = d) ∧
    (∀ r', r' ≠ r → after.reg r' = dev.reg r') ∧ (dev.reg r = d → after.reg r = d) ∧
    after.log = dev.log ++ [.write r d take]

/-- The model's choice (log 12, which reads the "after" of 60_exceptions R180 as "at the edge of the `P`"): no event but a `P`
changes a register. What R180 and 70_reset_and_hazards R191 say themselves is the case of X, a transaction that ends without
`P`. -/
def Obligations.OnlyStopChangesRegisters : Prop :=
  ∀ (dev : TouchController) (e : BusEvent) (take : Bool) (r : Byte), e ≠ .p →
    (dev.hear e take).reg r = dev.reg r

/-- 60_exceptions R180: the registers are what the finished transactions make of the power-up draws; every bus event keeps
that. -/
def Obligations.RegistersFollowTheTransactions : Prop :=
  ∀ (dev : TouchController) (e : BusEvent) (take : Bool),
    (∀ r : Byte, dev.reg r = regAfter r (unlistedReg r.toNat) dev.log) →
    ∀ r : Byte, (dev.hear e take).reg r = regAfter r (unlistedReg r.toNat) (dev.hear e take).log

/-- 60_exceptions R180 to R182, 90_conflicts C7 (the source's scenario 3): under ENV_WRITE_TAKES and ENV_READ_FRESH, after four
write transactions to (r, d) the register holds d, and the second read transaction returns d. The record of transactions is the
model's (log 12). The second read's address bytes are acknowledged, because R181 leaves the byte of a read with a NACKed address
any; the first read may be acknowledged or not. That "NACKed address" means either address byte is the model's reading
(log 11). -/
def Obligations.FourWritesTwoReads : Prop :=
  ∀ (r d v x1 x2 : Byte) (before : List DevOp) (t1 t2 t3 t4 acked : Bool),
    envWriteTakes (before ++ [.write r d t1, .write r d t2, .write r d t3, .write r d t4]) →
    regAfter r v (before ++ [.write r d t1, .write r d t2, .write r d t3, .write r d t4]) = d ∧
    (envReadFresh r v .unwritten (before ++ [.write r d t1, .write r d t2, .write r d t3, .write r d t4,
      .read r x1 acked, .read r x2 true]) → x2 = d)

/-! ## The LED chain -/

/-- 60_exceptions R177: Latch() shows the complete pixels in order, leaves the cell of a partial pixel a draw and the others as
they were; after havoc every cell is a draw. -/
def Obligations.LatchShowsPixelsInOrder : Prop :=
  ∀ (c : LedChain) (pixels : List Pixel) (partialBits : List Bool) (serial k : Nat) (old : Cell),
    c.pending = (pixels.map pixelBitList).flatten ++ partialBits → partialBits.length < 24 → c.disp[k]? = some old →
    (c.latch serial).pending = [] ∧ (c.latch serial).bad = false ∧
    (c.bad = true → (c.latch serial).disp[k]? = some (.drawn serial k)) ∧
    (c.bad = false → (∀ pixel, pixels[k]? = some pixel → (c.latch serial).disp[k]? = some (.shown pixel)) ∧
      (k = pixels.length → partialBits ≠ [] → (c.latch serial).disp[k]? = some (.drawn serial k)) ∧
      (pixels.length < k ∨ (k = pixels.length ∧ partialBits = []) → (c.latch serial).disp[k]? = some old))

/-- 60_exceptions R178: 64 pixels sent with gaps of at most GAP_TOL to a latched chain, and then at least LATCH_CYCLES low
cycles, are displayed in order. -/
def Obligations.FrameIsDisplayed : Prop :=
  ∀ (p : Params) (c : LedChain) (frame : List (Pixel × Nat)) (lowCycles serial : Nat),
    p.Wf → c.latched → c.disp.length = 64 → frame.length = 64 → (∀ x ∈ frame, x.2 ≤ p.gapTol) →
    p.latchCycles ≤ lowCycles →
    (c.sampleAll p (frameLevels p frame ++ List.replicate lowCycles false) serial).disp =
      frame.map fun x => .shown x.1

/-- 60_exceptions R176: a pulse of neither shape, or one whose low time is above its tolerance, sets BAD at the next rising
level, where its low time is below LATCH_CYCLES, as it is for every open pulse of a run (`State.Inv.pulse_open`). That a low run
is taken for a latch in its LATCH_CYCLES-th cycle already, so that no longer one is open here, is the model's reading (log 8). -/
def Obligations.OffNominalPulseIsHavoc : Prop :=
  ∀ (p : Params) (c : LedChain) (serial : Nat), 0 < c.high → 0 < c.low → c.low < p.latchCycles →
    ((c.high ≠ p.t0h ∧ c.high ≠ p.t1h) ∨ bitPeriod - c.high + p.gapTol < c.low) →
    (c.sample p true serial).bad = true

/-- 70_reset_and_hazards R191, 60_exceptions R176: after a reset at a cycle of an LED command with PH < TH − 1, DOUT is low and
the open pulse is marked as one of neither shape, whatever its length. It stays so while DOUT is low, is havoc at the next pulse,
and the chain shows draws if it latches before. At a reset at a later cycle of the bit the pulse keeps its shape. The mark `cut` is
the model's (log 22), so is that a reset is remembered (`markReset`, log 24), and the cycle of the latch is its reading
(log 8). -/
def Obligations.ResetCutsThePulse : Prop :=
  (∀ s : State, s.mode = .led → s.resetting = true → ∃ t, step s = .next t ∧ t.dout = false ∧
    (s.ph < highCycles Config.params (s.sr.getLsbD 23) - 1 → 0 < t.chain.high ∧ t.chain.cut = true) ∧
    (highCycles Config.params (s.sr.getLsbD 23) - 1 ≤ s.ph →
      t.chain = (s.chain.sample Config.params s.dout (s.tick + 1)).markReset)) ∧
  ∀ (p : Params) (c : LedChain) (serial : Nat), 0 < c.high → c.cut = true →
    (c.low + 1 < p.latchCycles → (c.sample p false serial).high = c.high ∧ (c.sample p false serial).cut = true) ∧
    (0 < c.low → c.low < p.latchCycles → (c.sample p true serial).bad = true) ∧
    (c.low + 1 = p.latchCycles → ∀ k < c.disp.length, (c.sample p false serial).disp[k]? = some (.drawn serial k))

/-- 70_reset_and_hazards R191: a reset leaves the chain what it received and showed. Where a pulse of a bit's shape, not cut short,
is open, and its low run reaches LATCH_CYCLES, reset or not, its bit is read and the chain latches, with the pixel in progress
partial: `latch` says what is shown (60_exceptions R176, R177). The cycle of the latch is the model's reading (log 8). -/
def Obligations.ResetKeepsWhatTheChainReceived : Prop :=
  (∀ s : State, s.resetting = true → ∃ t, step s = .next t ∧
    t.chain.pending = (s.chain.sample Config.params s.dout (s.tick + 1)).pending ∧
    t.chain.bad = (s.chain.sample Config.params s.dout (s.tick + 1)).bad ∧
    t.chain.disp = (s.chain.sample Config.params s.dout (s.tick + 1)).disp ∧
    t.chain.high = (s.chain.sample Config.params s.dout (s.tick + 1)).high ∧
    (0 < t.chain.high → t.chain.low = (s.chain.sample Config.params s.dout (s.tick + 1)).low)) ∧
  ∀ (p : Params) (c : LedChain) (b : Bool) (n serial : Nat), p.Wf → c.high = highCycles p b → c.cut = false →
    c.bad = false → c.low + (n + 1) = p.latchCycles →
    (c.sampleAll p (List.replicate (n + 1) false) serial).latched ∧
    (c.sampleAll p (List.replicate (n + 1) false) serial).disp =
      (LedChain.latch { c with pending := c.pending ++ [b] } (serial + n)).disp

/-- 60_exceptions R176, of a low run after a reset that is the low time of no pulse: with nothing pending, after LATCH_CYCLES of it
the chain has latched and its cells still show what they showed, all draws where it was BAD. A pulse before that makes the
chain's state a draw, BAD with every cell a draw, or finds the chain as it was before the reset; which of these is a draw of the
model (log 24). The cycle of the latch is the model's reading (log 8). -/
def Obligations.IdleAfterReset : Prop :=
  (∀ s : State, s.resetting = true → ∃ t, step s = .next t ∧ t.chain.afterReset = true ∧
    (t.chain.high = 0 → t.chain.low = 0)) ∧
  ∀ (p : Params) (c : LedChain) (serial : Nat), p.Wf → c.afterReset = true → c.high = 0 → c.low = 0 → c.pending = [] →
    (∃ latch : Nat,
      (c.sampleAll p (List.replicate p.latchCycles false) serial).latched ∧
      (c.bad = false → (c.sampleAll p (List.replicate p.latchCycles false) serial).disp = c.disp) ∧
      (c.bad = true → ∀ k < c.disp.length,
        (c.sampleAll p (List.replicate p.latchCycles false) serial).disp[k]? = some (.drawn latch k))) ∧
    ∀ n < p.latchCycles, ∃ pulse : Nat,
      ((c.sampleAll p (List.replicate n false ++ [true]) serial).bad = true ∧
        ∀ k < c.disp.length,
          (c.sampleAll p (List.replicate n false ++ [true]) serial).disp[k]? = some (.drawn pulse k)) ∨
      c.sampleAll p (List.replicate n false ++ [true]) serial = c.openPulse

/-! ## The host -/

/-- 30_encoding R97: WAITDONE repeats its read of STATUS until bit 1 reads 1, WAITIDLE until bit 0 reads 0, and neither changes
the block. -/
def Obligations.WaitsPollStatus : Prop :=
  ∀ (s t : State) (rest : List HostStmt), s.hostQ = [] → s.seqOk = true → step s = .next t →
    (s.prog = .waitDone :: rest →
      t.prog = (if s.done then rest else s.prog) ∧ t = endCycle s s.advance) ∧
    (s.prog = .waitIdle :: rest →
      t.prog = (if s.busy then s.prog else rest) ∧ t = endCycle s s.advance)
end

