-- ==== Sys2Proof/Laws/Config.lean ====
section
/-! SUPPORT. The parameters of this implementation meet the constraints of 00_scope R8, whatever the open parts are. -/
namespace Sys2Proof

theorem Config.params_wf : Config.params.Wf := by
  have h0 := Config.t0hLess1.isLt
  have h1 := Config.t1hLess11.isLt
  simp only [Params.Wf, Config.params, Params.t0l, Params.t1l, bitPeriod]
  omega

/-- T0H is 1 to 9 and T1H is 11 to 19 (00_scope R8). -/
theorem Config.pulse_range :
    (1 ≤ Config.params.t0h ∧ Config.params.t0h ≤ 9) ∧ (11 ≤ Config.params.t1h ∧ Config.params.t1h ≤ 19) := by
  have h0 := Config.t0hLess1.isLt
  have h1 := Config.t1hLess11.isLt
  simp only [Config.params]
  omega

end Sys2Proof
end

