-- ==== Sys2Proof/Laws/LedChain.lean ====
section
/-! SUPPORT. What one sample of the LED chain can do, case by case, and that no sample changes the number of cells. -/
namespace Sys2Proof.Machine

/-- A high cycle with no pulse open. -/
theorem LedChain.sampleHigh_open {p : Params} {c : LedChain} {serial : Nat} (ho : c.high = 0) :
    c.sampleHigh p serial = c.openPulse := by
  simp [LedChain.sampleHigh, ho]

/-- A high cycle of a run that is already high. -/
theorem LedChain.sampleHigh_longer {p : Params} {c : LedChain} {serial : Nat} (ho : c.high ≠ 0) (h : c.low = 0) :
    c.sampleHigh p serial = { c with high := c.high + 1 } := by
  simp [LedChain.sampleHigh, ho, h]

/-- A rising level closes the open pulse and opens the next. -/
theorem LedChain.sampleHigh_close {p : Params} {c : LedChain} {serial : Nat} (ho : c.high ≠ 0) (h : c.low ≠ 0) :
    c.sampleHigh p serial = (c.closePulse p serial).openPulse := by
  simp [LedChain.sampleHigh, ho, h]

/-- A high cycle where no reset has come since the last pulse or latch. -/
theorem LedChain.sample_high {p : Params} {c : LedChain} {serial : Nat} (hr : c.afterReset = false) :
    c.sample p true serial = c.sampleHigh p serial := by
  simp [LedChain.sample, hr]

/-- What a high cycle can do: what the pulses say, or, after a reset and a short idle, a draw (60_exceptions R176). -/
theorem LedChain.sample_high_cases (p : Params) (c : LedChain) (serial : Nat) :
    c.sample p true serial = c.sampleHigh p serial ∨
      (c.afterReset = true ∧ c.sample p true serial = (c.undetermined serial).openPulse) := by
  simp only [LedChain.sample, if_true]
  split
  · next h =>
    rw [Bool.and_eq_true] at h
    exact .inr ⟨h.1, rfl⟩
  · exact .inl rfl

/-- A low cycle that does not complete LATCH_CYCLES. -/
theorem LedChain.sample_low {p : Params} {c : LedChain} {serial : Nat} (h : c.low + 1 ≠ p.latchCycles) :
    c.sample p false serial = { c with low := c.low + 1 } := by
  simp [LedChain.sample, h]

/-- The low cycle that completes LATCH_CYCLES. -/
theorem LedChain.sample_latch {p : Params} {c : LedChain} {serial : Nat} (h : c.low + 1 = p.latchCycles) :
    c.sample p false serial = ({ c with low := c.low + 1 } : LedChain).closeAndLatch p serial := by
  simp [LedChain.sample, h]

/-- The two shapes of a pulse (60_exceptions R176). -/
theorem bitOfHigh_highCycles {p : Params} (h : p.t0h < p.t1h) (b : Bool) : bitOfHigh p (highCycles p b) = some b := by
  cases b with
  | false => simp [bitOfHigh, highCycles]
  | true =>
    have hne : ¬ p.t1h = p.t0h := by omega
    simp [bitOfHigh, highCycles, hne]

/-- A pulse of a bit's shape that no reset cut short has that bit. -/
theorem LedChain.openBit_nominal {p : Params} {c : LedChain} {b : Bool} (h : p.t0h < p.t1h) (hc : c.cut = false)
    (hh : c.high = highCycles p b) : c.openBit p = some b := by
  simp [LedChain.openBit, hc, hh, bitOfHigh_highCycles h]

/-- A pulse that a reset cut short has no bit (70_reset_and_hazards R191). -/
theorem LedChain.openBit_cut {p : Params} {c : LedChain} (hc : c.cut = true) : c.openBit p = none := by
  simp [LedChain.openBit, hc]

/-- A closed pulse of a bit's shape, within its tolerance, gives that bit. -/
theorem LedChain.closePulse_nominal {p : Params} {c : LedChain} {serial : Nat} {b : Bool} (h : p.t0h < p.t1h)
    (hc : c.cut = false) (hh : c.high = highCycles p b) (hl : c.low ≤ bitPeriod - highCycles p b + p.gapTol) :
    c.closePulse p serial = c.receive b serial := by
  simp [LedChain.closePulse, LedChain.openBit_nominal h hc hh, hh, hl]

/-- A closed pulse of neither shape is havoc. -/
theorem LedChain.closePulse_none {p : Params} {c : LedChain} {serial : Nat} (h : c.openBit p = none) :
    c.closePulse p serial = { c with bad := true } := by
  simp [LedChain.closePulse, h]

@[simp] theorem LedChain.receive_pending (c : LedChain) (b : Bool) (serial : Nat) :
    (c.receive b serial).pending = c.pending ++ [if c.bad then Config.chainBit serial else b] := rfl
@[simp] theorem LedChain.receive_bad (c : LedChain) (b : Bool) (serial : Nat) : (c.receive b serial).bad = c.bad := rfl
@[simp] theorem LedChain.receive_disp (c : LedChain) (b : Bool) (serial : Nat) : (c.receive b serial).disp = c.disp := rfl
@[simp] theorem LedChain.latch_pending (c : LedChain) (serial : Nat) : (c.latch serial).pending = [] := rfl
@[simp] theorem LedChain.latch_bad (c : LedChain) (serial : Nat) : (c.latch serial).bad = false := rfl
@[simp] theorem LedChain.latch_high (c : LedChain) (serial : Nat) : (c.latch serial).high = c.high := rfl
@[simp] theorem LedChain.latch_low (c : LedChain) (serial : Nat) : (c.latch serial).low = c.low := rfl
@[simp] theorem LedChain.receive_cut (c : LedChain) (b : Bool) (serial : Nat) : (c.receive b serial).cut = c.cut := rfl
@[simp] theorem LedChain.latch_cut (c : LedChain) (serial : Nat) : (c.latch serial).cut = c.cut := rfl
@[simp] theorem LedChain.openPulse_high (c : LedChain) : c.openPulse.high = 1 := rfl
@[simp] theorem LedChain.openPulse_low (c : LedChain) : c.openPulse.low = 0 := rfl
@[simp] theorem LedChain.openPulse_cut (c : LedChain) : c.openPulse.cut = false := rfl
@[simp] theorem LedChain.openPulse_pending (c : LedChain) : c.openPulse.pending = c.pending := rfl
@[simp] theorem LedChain.openPulse_bad (c : LedChain) : c.openPulse.bad = c.bad := rfl
@[simp] theorem LedChain.openPulse_disp (c : LedChain) : c.openPulse.disp = c.disp := rfl
@[simp] theorem LedChain.closeAndLatch_high (p : Params) (c : LedChain) (serial : Nat) :
    (c.closeAndLatch p serial).high = 0 := rfl
@[simp] theorem LedChain.closeAndLatch_cut (p : Params) (c : LedChain) (serial : Nat) :
    (c.closeAndLatch p serial).cut = false := rfl
@[simp] theorem LedChain.closeAndLatch_bad (p : Params) (c : LedChain) (serial : Nat) :
    (c.closeAndLatch p serial).bad = false := rfl
@[simp] theorem LedChain.closeAndLatch_pending (p : Params) (c : LedChain) (serial : Nat) :
    (c.closeAndLatch p serial).pending = [] := rfl
@[simp] theorem LedChain.receive_afterReset (c : LedChain) (b : Bool) (serial : Nat) :
    (c.receive b serial).afterReset = c.afterReset := rfl
@[simp] theorem LedChain.latch_afterReset (c : LedChain) (serial : Nat) :
    (c.latch serial).afterReset = c.afterReset := rfl
@[simp] theorem LedChain.openPulse_afterReset (c : LedChain) : c.openPulse.afterReset = false := rfl
@[simp] theorem LedChain.closeAndLatch_afterReset (p : Params) (c : LedChain) (serial : Nat) :
    (c.closeAndLatch p serial).afterReset = false := rfl
@[simp] theorem LedChain.undetermined_bad (c : LedChain) (serial : Nat) : (c.undetermined serial).bad = true := rfl
@[simp] theorem LedChain.undetermined_pending (c : LedChain) (serial : Nat) : (c.undetermined serial).pending = [] := rfl
@[simp] theorem LedChain.undetermined_cells (c : LedChain) (serial : Nat) :
    (c.undetermined serial).disp.length = c.disp.length := by
  simp [LedChain.undetermined]
@[simp] theorem LedChain.markReset_high (c : LedChain) : c.markReset.high = c.high := rfl
/-- The low run of an open pulse goes on at a reset. -/
theorem LedChain.markReset_low_of_open {c : LedChain} (h : c.high ≠ 0) : c.markReset.low = c.low := by
  simp [LedChain.markReset, h]
/-- A low run of no pulse counts from the reset. -/
theorem LedChain.markReset_low_of_idle {c : LedChain} (h : c.high = 0) : c.markReset.low = 0 := by
  simp [LedChain.markReset, h]
@[simp] theorem LedChain.markReset_cut (c : LedChain) : c.markReset.cut = c.cut := rfl
@[simp] theorem LedChain.markReset_pending (c : LedChain) : c.markReset.pending = c.pending := rfl
@[simp] theorem LedChain.markReset_bad (c : LedChain) : c.markReset.bad = c.bad := rfl
@[simp] theorem LedChain.markReset_afterReset (c : LedChain) : c.markReset.afterReset = true := rfl
@[simp] theorem LedChain.markReset_disp (c : LedChain) : c.markReset.disp = c.disp := rfl
@[simp] theorem LedChain.latch_cells (c : LedChain) (serial : Nat) : (c.latch serial).disp.length = c.disp.length := by
  simp [LedChain.latch]

@[simp] theorem LedChain.closePulse_disp (p : Params) (c : LedChain) (serial : Nat) :
    (c.closePulse p serial).disp = c.disp := by
  unfold LedChain.closePulse
  split
  · split <;> rfl
  · rfl

@[simp] theorem LedChain.closeAndLatch_cells (p : Params) (c : LedChain) (serial : Nat) :
    (c.closeAndLatch p serial).disp.length = c.disp.length := by
  simp only [LedChain.closeAndLatch, LedChain.latch_cells]
  split
  · rfl
  · split <;> rfl

/-- No sample changes the number of cells (60_exceptions R177: DISP[0..63]). -/
@[simp] theorem LedChain.sample_cells (p : Params) (c : LedChain) (level : Bool) (serial : Nat) :
    (c.sample p level serial).disp.length = c.disp.length := by
  cases level with
  | true =>
    rcases LedChain.sample_high_cases p c serial with e | ⟨_, e⟩ <;> rw [e]
    · unfold LedChain.sampleHigh
      split
      · rfl
      · split
        · rfl
        · simp
    · simp
  | false =>
    by_cases h : c.low + 1 = p.latchCycles
    · rw [LedChain.sample_latch h]; simp
    · rw [LedChain.sample_low h]

/-- A high cycle leaves a pulse open, and its low run empty. -/
theorem LedChain.sample_high_opens (p : Params) (c : LedChain) (serial : Nat) :
    0 < (c.sample p true serial).high ∧ (c.sample p true serial).low = 0 := by
  rcases LedChain.sample_high_cases p c serial with e | ⟨_, e⟩ <;> rw [e]
  · by_cases ho : c.high = 0
    · rw [LedChain.sampleHigh_open ho]; exact ⟨Nat.one_pos, rfl⟩
    · by_cases hl : c.low = 0
      · rw [LedChain.sampleHigh_longer ho hl]; exact ⟨Nat.succ_pos _, hl⟩
      · rw [LedChain.sampleHigh_close ho hl]; exact ⟨Nat.one_pos, rfl⟩
  · exact ⟨Nat.one_pos, rfl⟩

/-- A pulse stays open for fewer than LATCH_CYCLES low cycles: the low cycle that reaches them closes it (60_exceptions R176). -/
theorem LedChain.sample_pulse_open {p : Params} {c : LedChain} (level : Bool) (serial : Nat) (hp : 0 < p.latchCycles)
    (h : 0 < c.high → c.low < p.latchCycles) :
    0 < (c.sample p level serial).high → (c.sample p level serial).low < p.latchCycles := by
  cases level with
  | true => exact fun _ => (LedChain.sample_high_opens p c serial).2 ▸ hp
  | false =>
    by_cases hl : c.low + 1 = p.latchCycles
    · rw [LedChain.sample_latch hl]; simp
    · rw [LedChain.sample_low hl]
      intro ho
      have := h ho
      show c.low + 1 < p.latchCycles
      omega

/-- Bits are pending only while a pulse is open (60_exceptions R176). -/
theorem LedChain.sample_pending_open {p : Params} {c : LedChain} (level : Bool) (serial : Nat)
    (h : c.high = 0 → c.pending = []) : (c.sample p level serial).high = 0 → (c.sample p level serial).pending = [] := by
  cases level with
  | true => exact fun ho => absurd ho (Nat.pos_iff_ne_zero.mp (LedChain.sample_high_opens p c serial).1)
  | false =>
    by_cases hl : c.low + 1 = p.latchCycles
    · rw [LedChain.sample_latch hl]; simp
    · rw [LedChain.sample_low hl]; exact h

end Sys2Proof.Machine
end

