-- ==== Sys2Proof/Laws/Memory.lean ====
section
/-! SUPPORT. The device's register space: every write keeps the canonical form, a read after a write gives what was written,
and a write leaves every other register alone. -/
namespace Sys2Proof.Machine

/-- Every listed address is at least `low`. -/
theorem regsWfFrom_mono : ∀ {cells : List Host.Cell} {low low' : Nat}, low' ≤ low → regsWfFrom low cells = true →
    regsWfFrom low' cells = true
  | [], _, _, _, _ => rfl
  | (a, v) :: rest, low, low', hle, h => by
    simp only [regsWfFrom, Bool.and_eq_true, decide_eq_true_eq] at h ⊢
    exact ⟨⟨⟨by omega, h.1.1.2⟩, h.1.2⟩, h.2⟩

theorem dropReg_wf : ∀ {cells : List Host.Cell} {low : Nat} (a : Nat), regsWfFrom low cells = true →
    regsWfFrom low (dropReg cells a) = true
  | [], _, _, _ => rfl
  | (b, u) :: rest, low, a, h => by
    simp only [regsWfFrom, Bool.and_eq_true, decide_eq_true_eq] at h
    unfold dropReg
    split
    · exact regsWfFrom_mono (by omega) (dropReg_wf a h.2)
    · simp only [regsWfFrom, Bool.and_eq_true, decide_eq_true_eq]
      exact ⟨h.1, dropReg_wf a h.2⟩

theorem readReg_dropReg_self : ∀ (cells : List Host.Cell) (a : Nat), readReg (dropReg cells a) a = unlistedReg a
  | [], _ => rfl
  | (b, u) :: rest, a => by
    unfold dropReg
    split
    · exact readReg_dropReg_self rest a
    · next h => simp only [readReg, if_neg h, readReg_dropReg_self rest a]

theorem readReg_dropReg_other : ∀ (cells : List Host.Cell) {a x : Nat}, x ≠ a →
    readReg (dropReg cells a) x = readReg cells x
  | [], _, _, _ => rfl
  | (b, u) :: rest, a, x, hx => by
    unfold dropReg
    split
    · next h => rw [readReg_dropReg_other rest hx, readReg, if_neg (by omega)]
    · simp only [readReg, readReg_dropReg_other rest hx]

theorem readReg_insertReg : ∀ (cells : List Host.Cell) (a x : Nat) (v : Byte), (∀ c ∈ cells, c.1 ≠ a) →
    readReg (insertReg cells a v) x = if x = a then v else readReg cells x
  | [], _, _, _, _ => rfl
  | (b, u) :: rest, a, x, v, h => by
    have hb : b ≠ a := h (b, u) (by simp)
    have ih := readReg_insertReg rest a x v (fun c hc => h c (by simp [hc]))
    unfold insertReg
    split
    · simp only [readReg]
    · simp only [readReg, ih]
      by_cases hxb : x = b
      · subst hxb; simp [hb]
      · simp [hxb]

theorem dropReg_not_mem : ∀ (cells : List Host.Cell) (a : Nat), ∀ c ∈ dropReg cells a, c.1 ≠ a
  | [], _, c, hc => by simp [dropReg] at hc
  | (b, u) :: rest, a, c, hc => by
    unfold dropReg at hc
    split at hc
    · exact dropReg_not_mem rest a c hc
    · next h =>
      rcases List.mem_cons.mp hc with rfl | hc
      · exact fun h' => h h'.symm
      · exact dropReg_not_mem rest a c hc

theorem insertReg_wf : ∀ {cells : List Host.Cell} {low a : Nat} {v : Byte}, regsWfFrom low cells = true →
    (∀ c ∈ cells, c.1 ≠ a) → low ≤ a → a < 256 → v ≠ unlistedReg a → regsWfFrom low (insertReg cells a v) = true
  | [], low, a, v, _, _, hl, ha, hv => by simp [insertReg, regsWfFrom, hl, ha, hv]
  | (b, u) :: rest, low, a, v, h, hn, hl, ha, hv => by
    have hb : b ≠ a := hn (b, u) (by simp)
    simp only [regsWfFrom, Bool.and_eq_true, decide_eq_true_eq] at h
    unfold insertReg
    split
    · simp only [regsWfFrom, Bool.and_eq_true, decide_eq_true_eq]
      exact ⟨⟨⟨hl, ha⟩, hv⟩, ⟨⟨by omega, h.1.1.2⟩, h.1.2⟩, h.2⟩
    · simp only [regsWfFrom, Bool.and_eq_true, decide_eq_true_eq]
      exact ⟨h.1, insertReg_wf h.2 (fun c hc => hn c (by simp [hc])) (by omega) ha hv⟩

/-- A register holds what was last written to it. -/
theorem readReg_writeReg_self (cells : List Host.Cell) (a : Nat) (v : Byte) : readReg (writeReg cells a v) a = v := by
  unfold writeReg
  split
  · next h => rw [readReg_dropReg_self, h]
  · rw [readReg_insertReg _ _ _ _ (dropReg_not_mem cells a), if_pos rfl]

/-- A write leaves every other register alone. -/
theorem readReg_writeReg_other (cells : List Host.Cell) {a x : Nat} (v : Byte) (h : x ≠ a) :
    readReg (writeReg cells a v) x = readReg cells x := by
  unfold writeReg
  split
  · exact readReg_dropReg_other cells h
  · rw [readReg_insertReg _ _ _ _ (dropReg_not_mem cells a), if_neg h, readReg_dropReg_other cells h]

/-- A write keeps the canonical form. -/
theorem writeReg_wf {cells : List Host.Cell} {a : Nat} {v : Byte} (ha : a < 256) (h : Memory.wf cells = true) :
    Memory.wf (writeReg cells a v) = true := by
  unfold Memory.wf writeReg at *
  split
  · exact dropReg_wf a h
  · next hv => exact insertReg_wf (dropReg_wf a h) (dropReg_not_mem cells a) (Nat.zero_le a) ha hv

/-- Every event the device hears keeps the canonical form of its registers. -/
theorem TouchController.hear_wf {d : TouchController} (e : BusEvent) (take : Bool) (h : Memory.wf d.regs = true) :
    Memory.wf (d.hear e take).regs = true := by
  cases e with
  | p =>
    simp only [TouchController.hear, TouchController.finish]
    split
    · exact h
    · simp only
      split
      · exact writeReg_wf (by omega) h
      · exact h
    · exact h
  | s => exact h
  | sr => exact h
  | w b k => exact h
  | r b => exact h
  | n => exact h
  | x => exact h

/-- At reset no register is listed. -/
theorem State.reset_registers_wf : Memory.wf State.reset.device.regs = true := rfl

end Sys2Proof.Machine
end

