-- ==== Sys2Proof/Laws/State.lean ====
section
/-! SUPPORT. One lemma per field per named update of State, each true by rfl. -/
namespace Sys2Proof.Machine

variable (s : State)

/-! ## `State.raise` -/

@[simp] theorem State.raise_i2cEn (c : ErrCode) : (s.raise c).i2cEn = s.i2cEn := rfl
@[simp] theorem State.raise_bitrate (c : ErrCode) : (s.raise c).bitrate = s.bitrate := rfl
@[simp] theorem State.raise_done (c : ErrCode) : (s.raise c).done = s.done := rfl
@[simp] theorem State.raise_err (c : ErrCode) : (s.raise c).err = true := rfl
@[simp] theorem State.raise_errCode (c : ErrCode) : (s.raise c).errCode = (if s.err then s.errCode else c) := rfl
@[simp] theorem State.raise_nack (c : ErrCode) : (s.raise c).nack = s.nack := rfl
@[simp] theorem State.raise_i2cState (c : ErrCode) : (s.raise c).i2cState = s.i2cState := rfl
@[simp] theorem State.raise_rxdata (c : ErrCode) : (s.raise c).rxdata = s.rxdata := rfl
@[simp] theorem State.raise_mode (c : ErrCode) : (s.raise c).mode = s.mode := rfl
@[simp] theorem State.raise_sr (c : ErrCode) : (s.raise c).sr = s.sr := rfl
@[simp] theorem State.raise_ph (c : ErrCode) : (s.raise c).ph = s.ph := rfl
@[simp] theorem State.raise_bl (c : ErrCode) : (s.raise c).bl = s.bl := rfl
@[simp] theorem State.raise_rem (c : ErrCode) : (s.raise c).rem = s.rem := rfl
@[simp] theorem State.raise_pl (c : ErrCode) : (s.raise c).pl = s.pl := rfl
@[simp] theorem State.raise_pidx (c : ErrCode) : (s.raise c).pidx = s.pidx := rfl
@[simp] theorem State.raise_xact (c : ErrCode) : (s.raise c).xact = s.xact := rfl
@[simp] theorem State.raise_trace (c : ErrCode) : (s.raise c).trace = s.trace := rfl
@[simp] theorem State.raise_chain (c : ErrCode) : (s.raise c).chain = s.chain := rfl
@[simp] theorem State.raise_device (c : ErrCode) : (s.raise c).device = s.device := rfl
@[simp] theorem State.raise_hostQ (c : ErrCode) : (s.raise c).hostQ = s.hostQ := rfl
@[simp] theorem State.raise_prog (c : ErrCode) : (s.raise c).prog = s.prog := rfl
@[simp] theorem State.raise_vars (c : ErrCode) : (s.raise c).vars = s.vars := rfl
@[simp] theorem State.raise_envQ (c : ErrCode) : (s.raise c).envQ = s.envQ := rfl
@[simp] theorem State.raise_tick (c : ErrCode) : (s.raise c).tick = s.tick := rfl

/-! ## `State.clearDone` -/

@[simp] theorem State.clearDone_i2cEn : (s.clearDone).i2cEn = s.i2cEn := rfl
@[simp] theorem State.clearDone_bitrate : (s.clearDone).bitrate = s.bitrate := rfl
@[simp] theorem State.clearDone_done : (s.clearDone).done = false := rfl
@[simp] theorem State.clearDone_err : (s.clearDone).err = s.err := rfl
@[simp] theorem State.clearDone_errCode : (s.clearDone).errCode = s.errCode := rfl
@[simp] theorem State.clearDone_nack : (s.clearDone).nack = s.nack := rfl
@[simp] theorem State.clearDone_i2cState : (s.clearDone).i2cState = s.i2cState.afterClear := rfl
@[simp] theorem State.clearDone_rxdata : (s.clearDone).rxdata = s.rxdata := rfl
@[simp] theorem State.clearDone_mode : (s.clearDone).mode = s.mode := rfl
@[simp] theorem State.clearDone_sr : (s.clearDone).sr = s.sr := rfl
@[simp] theorem State.clearDone_ph : (s.clearDone).ph = s.ph := rfl
@[simp] theorem State.clearDone_bl : (s.clearDone).bl = s.bl := rfl
@[simp] theorem State.clearDone_rem : (s.clearDone).rem = s.rem := rfl
@[simp] theorem State.clearDone_pl : (s.clearDone).pl = s.pl := rfl
@[simp] theorem State.clearDone_pidx : (s.clearDone).pidx = s.pidx := rfl
@[simp] theorem State.clearDone_xact : (s.clearDone).xact = s.xact := rfl
@[simp] theorem State.clearDone_trace : (s.clearDone).trace = s.trace := rfl
@[simp] theorem State.clearDone_chain : (s.clearDone).chain = s.chain := rfl
@[simp] theorem State.clearDone_device : (s.clearDone).device = s.device := rfl
@[simp] theorem State.clearDone_hostQ : (s.clearDone).hostQ = s.hostQ := rfl
@[simp] theorem State.clearDone_prog : (s.clearDone).prog = s.prog := rfl
@[simp] theorem State.clearDone_vars : (s.clearDone).vars = s.vars := rfl
@[simp] theorem State.clearDone_envQ : (s.clearDone).envQ = s.envQ := rfl
@[simp] theorem State.clearDone_tick : (s.clearDone).tick = s.tick := rfl

/-! ## `State.busEvent` -/

@[simp] theorem State.busEvent_i2cEn (e : BusEvent) : (s.busEvent e).i2cEn = s.i2cEn := rfl
@[simp] theorem State.busEvent_bitrate (e : BusEvent) : (s.busEvent e).bitrate = s.bitrate := rfl
@[simp] theorem State.busEvent_done (e : BusEvent) : (s.busEvent e).done = s.done := rfl
@[simp] theorem State.busEvent_err (e : BusEvent) : (s.busEvent e).err = s.err := rfl
@[simp] theorem State.busEvent_errCode (e : BusEvent) : (s.busEvent e).errCode = s.errCode := rfl
@[simp] theorem State.busEvent_nack (e : BusEvent) : (s.busEvent e).nack = s.nack := rfl
@[simp] theorem State.busEvent_i2cState (e : BusEvent) : (s.busEvent e).i2cState = s.i2cState := rfl
@[simp] theorem State.busEvent_rxdata (e : BusEvent) : (s.busEvent e).rxdata = s.rxdata := rfl
@[simp] theorem State.busEvent_mode (e : BusEvent) : (s.busEvent e).mode = s.mode := rfl
@[simp] theorem State.busEvent_sr (e : BusEvent) : (s.busEvent e).sr = s.sr := rfl
@[simp] theorem State.busEvent_ph (e : BusEvent) : (s.busEvent e).ph = s.ph := rfl
@[simp] theorem State.busEvent_bl (e : BusEvent) : (s.busEvent e).bl = s.bl := rfl
@[simp] theorem State.busEvent_rem (e : BusEvent) : (s.busEvent e).rem = s.rem := rfl
@[simp] theorem State.busEvent_pl (e : BusEvent) : (s.busEvent e).pl = s.pl := rfl
@[simp] theorem State.busEvent_pidx (e : BusEvent) : (s.busEvent e).pidx = s.pidx := rfl
@[simp] theorem State.busEvent_xact (e : BusEvent) : (s.busEvent e).xact = s.xact := rfl
@[simp] theorem State.busEvent_trace (e : BusEvent) : (s.busEvent e).trace = s.trace ++ [e] := rfl
@[simp] theorem State.busEvent_chain (e : BusEvent) : (s.busEvent e).chain = s.chain := rfl
@[simp] theorem State.busEvent_device (e : BusEvent) : (s.busEvent e).device = s.device.hear e s.env.take := rfl
@[simp] theorem State.busEvent_hostQ (e : BusEvent) : (s.busEvent e).hostQ = s.hostQ := rfl
@[simp] theorem State.busEvent_prog (e : BusEvent) : (s.busEvent e).prog = s.prog := rfl
@[simp] theorem State.busEvent_vars (e : BusEvent) : (s.busEvent e).vars = s.vars := rfl
@[simp] theorem State.busEvent_envQ (e : BusEvent) : (s.busEvent e).envQ = s.envQ := rfl
@[simp] theorem State.busEvent_tick (e : BusEvent) : (s.busEvent e).tick = s.tick := rfl

/-! ## `State.applyPhase` -/

@[simp] theorem State.applyPhase_i2cEn (q : Phase) : (s.applyPhase q).i2cEn = s.i2cEn := rfl
@[simp] theorem State.applyPhase_bitrate (q : Phase) : (s.applyPhase q).bitrate = s.bitrate := rfl
@[simp] theorem State.applyPhase_done (q : Phase) : (s.applyPhase q).done = s.done := rfl
@[simp] theorem State.applyPhase_err (q : Phase) : (s.applyPhase q).err = s.err := rfl
@[simp] theorem State.applyPhase_errCode (q : Phase) : (s.applyPhase q).errCode = s.errCode := rfl
@[simp] theorem State.applyPhase_nack (q : Phase) : (s.applyPhase q).nack = q.nextNack s.nack s.env := rfl
@[simp] theorem State.applyPhase_i2cState (q : Phase) : (s.applyPhase q).i2cState = q.nextState s.i2cState := rfl
@[simp] theorem State.applyPhase_rxdata (q : Phase) : (s.applyPhase q).rxdata = q.nextRxdata s.rxdata s.env := rfl
@[simp] theorem State.applyPhase_mode (q : Phase) : (s.applyPhase q).mode = s.mode := rfl
@[simp] theorem State.applyPhase_sr (q : Phase) : (s.applyPhase q).sr = s.sr := rfl
@[simp] theorem State.applyPhase_ph (q : Phase) : (s.applyPhase q).ph = s.ph := rfl
@[simp] theorem State.applyPhase_bl (q : Phase) : (s.applyPhase q).bl = s.bl := rfl
@[simp] theorem State.applyPhase_rem (q : Phase) : (s.applyPhase q).rem = s.rem := rfl
@[simp] theorem State.applyPhase_pl (q : Phase) : (s.applyPhase q).pl = s.pl := rfl
@[simp] theorem State.applyPhase_pidx (q : Phase) : (s.applyPhase q).pidx = s.pidx := rfl
@[simp] theorem State.applyPhase_xact (q : Phase) : (s.applyPhase q).xact = s.xact := rfl
@[simp] theorem State.applyPhase_trace (q : Phase) : (s.applyPhase q).trace = s.trace ++ [q.event s.env] := rfl
@[simp] theorem State.applyPhase_chain (q : Phase) : (s.applyPhase q).chain = s.chain := rfl
@[simp] theorem State.applyPhase_device (q : Phase) : (s.applyPhase q).device = s.device.hear (q.event s.env) s.env.take := rfl
@[simp] theorem State.applyPhase_hostQ (q : Phase) : (s.applyPhase q).hostQ = s.hostQ := rfl
@[simp] theorem State.applyPhase_prog (q : Phase) : (s.applyPhase q).prog = s.prog := rfl
@[simp] theorem State.applyPhase_vars (q : Phase) : (s.applyPhase q).vars = s.vars := rfl
@[simp] theorem State.applyPhase_envQ (q : Phase) : (s.applyPhase q).envQ = s.envQ := rfl
@[simp] theorem State.applyPhase_tick (q : Phase) : (s.applyPhase q).tick = s.tick := rfl

/-! ## `State.finishI2c` -/

@[simp] theorem State.finishI2c_i2cEn : (s.finishI2c).i2cEn = s.i2cEn := rfl
@[simp] theorem State.finishI2c_bitrate : (s.finishI2c).bitrate = s.bitrate := rfl
@[simp] theorem State.finishI2c_done : (s.finishI2c).done = true := rfl
@[simp] theorem State.finishI2c_err : (s.finishI2c).err = s.err := rfl
@[simp] theorem State.finishI2c_errCode : (s.finishI2c).errCode = s.errCode := rfl
@[simp] theorem State.finishI2c_nack : (s.finishI2c).nack = s.nack := rfl
@[simp] theorem State.finishI2c_i2cState : (s.finishI2c).i2cState = (if s.xact then .idle else s.i2cState) := rfl
@[simp] theorem State.finishI2c_rxdata : (s.finishI2c).rxdata = s.rxdata := rfl
@[simp] theorem State.finishI2c_mode : (s.finishI2c).mode = .idle := rfl
@[simp] theorem State.finishI2c_sr : (s.finishI2c).sr = s.sr := rfl
@[simp] theorem State.finishI2c_ph : (s.finishI2c).ph = s.ph := rfl
@[simp] theorem State.finishI2c_bl : (s.finishI2c).bl = s.bl := rfl
@[simp] theorem State.finishI2c_rem : (s.finishI2c).rem = s.rem := rfl
@[simp] theorem State.finishI2c_pl : (s.finishI2c).pl = s.pl := rfl
@[simp] theorem State.finishI2c_pidx : (s.finishI2c).pidx = s.pidx := rfl
@[simp] theorem State.finishI2c_xact : (s.finishI2c).xact = false := rfl
@[simp] theorem State.finishI2c_trace : (s.finishI2c).trace = s.trace := rfl
@[simp] theorem State.finishI2c_chain : (s.finishI2c).chain = s.chain := rfl
@[simp] theorem State.finishI2c_device : (s.finishI2c).device = s.device := rfl
@[simp] theorem State.finishI2c_hostQ : (s.finishI2c).hostQ = s.hostQ := rfl
@[simp] theorem State.finishI2c_prog : (s.finishI2c).prog = s.prog := rfl
@[simp] theorem State.finishI2c_vars : (s.finishI2c).vars = s.vars := rfl
@[simp] theorem State.finishI2c_envQ : (s.finishI2c).envQ = s.envQ := rfl
@[simp] theorem State.finishI2c_tick : (s.finishI2c).tick = s.tick := rfl

/-! ## `State.reject` -/

@[simp] theorem State.reject_i2cEn (c : ErrCode) : (s.reject c).i2cEn = s.i2cEn := rfl
@[simp] theorem State.reject_bitrate (c : ErrCode) : (s.reject c).bitrate = s.bitrate := rfl
@[simp] theorem State.reject_done (c : ErrCode) : (s.reject c).done = true := rfl
@[simp] theorem State.reject_err (c : ErrCode) : (s.reject c).err = true := rfl
@[simp] theorem State.reject_errCode (c : ErrCode) : (s.reject c).errCode = (if s.err then s.errCode else c) := rfl
@[simp] theorem State.reject_nack (c : ErrCode) : (s.reject c).nack = s.nack := rfl
@[simp] theorem State.reject_i2cState (c : ErrCode) : (s.reject c).i2cState = s.i2cState := rfl
@[simp] theorem State.reject_rxdata (c : ErrCode) : (s.reject c).rxdata = s.rxdata := rfl
@[simp] theorem State.reject_mode (c : ErrCode) : (s.reject c).mode = .dly := rfl
@[simp] theorem State.reject_sr (c : ErrCode) : (s.reject c).sr = s.sr := rfl
@[simp] theorem State.reject_ph (c : ErrCode) : (s.reject c).ph = s.ph := rfl
@[simp] theorem State.reject_bl (c : ErrCode) : (s.reject c).bl = s.bl := rfl
@[simp] theorem State.reject_rem (c : ErrCode) : (s.reject c).rem = 1 := rfl
@[simp] theorem State.reject_pl (c : ErrCode) : (s.reject c).pl = s.pl := rfl
@[simp] theorem State.reject_pidx (c : ErrCode) : (s.reject c).pidx = s.pidx := rfl
@[simp] theorem State.reject_xact (c : ErrCode) : (s.reject c).xact = s.xact := rfl
@[simp] theorem State.reject_trace (c : ErrCode) : (s.reject c).trace = s.trace := rfl
@[simp] theorem State.reject_chain (c : ErrCode) : (s.reject c).chain = s.chain := rfl
@[simp] theorem State.reject_device (c : ErrCode) : (s.reject c).device = s.device := rfl
@[simp] theorem State.reject_hostQ (c : ErrCode) : (s.reject c).hostQ = s.hostQ := rfl
@[simp] theorem State.reject_prog (c : ErrCode) : (s.reject c).prog = s.prog := rfl
@[simp] theorem State.reject_vars (c : ErrCode) : (s.reject c).vars = s.vars := rfl
@[simp] theorem State.reject_envQ (c : ErrCode) : (s.reject c).envQ = s.envQ := rfl
@[simp] theorem State.reject_tick (c : ErrCode) : (s.reject c).tick = s.tick := rfl

/-! ## `State.started` -/

@[simp] theorem State.started_i2cEn : (s.started).i2cEn = s.i2cEn := rfl
@[simp] theorem State.started_bitrate : (s.started).bitrate = s.bitrate := rfl
@[simp] theorem State.started_done : (s.started).done = (s.done || s.final) := rfl
@[simp] theorem State.started_err : (s.started).err = s.err := rfl
@[simp] theorem State.started_errCode : (s.started).errCode = s.errCode := rfl
@[simp] theorem State.started_nack : (s.started).nack = s.nack := rfl
@[simp] theorem State.started_i2cState : (s.started).i2cState = s.i2cState := rfl
@[simp] theorem State.started_rxdata : (s.started).rxdata = s.rxdata := rfl
@[simp] theorem State.started_mode : (s.started).mode = s.mode := rfl
@[simp] theorem State.started_sr : (s.started).sr = s.sr := rfl
@[simp] theorem State.started_ph : (s.started).ph = s.ph := rfl
@[simp] theorem State.started_bl : (s.started).bl = s.bl := rfl
@[simp] theorem State.started_rem : (s.started).rem = s.rem := rfl
@[simp] theorem State.started_pl : (s.started).pl = s.pl := rfl
@[simp] theorem State.started_pidx : (s.started).pidx = s.pidx := rfl
@[simp] theorem State.started_xact : (s.started).xact = s.xact := rfl
@[simp] theorem State.started_trace : (s.started).trace = s.trace := rfl
@[simp] theorem State.started_chain : (s.started).chain = s.chain := rfl
@[simp] theorem State.started_device : (s.started).device = s.device := rfl
@[simp] theorem State.started_hostQ : (s.started).hostQ = s.hostQ := rfl
@[simp] theorem State.started_prog : (s.started).prog = s.prog := rfl
@[simp] theorem State.started_vars : (s.started).vars = s.vars := rfl
@[simp] theorem State.started_envQ : (s.started).envQ = s.envQ := rfl
@[simp] theorem State.started_tick : (s.started).tick = s.tick := rfl

/-! ## `State.startLed` -/

@[simp] theorem State.startLed_i2cEn (p : Pixel) (n : Nat) : (s.startLed p n).i2cEn = s.i2cEn := rfl
@[simp] theorem State.startLed_bitrate (p : Pixel) (n : Nat) : (s.startLed p n).bitrate = s.bitrate := rfl
@[simp] theorem State.startLed_done (p : Pixel) (n : Nat) : (s.startLed p n).done = s.done := rfl
@[simp] theorem State.startLed_err (p : Pixel) (n : Nat) : (s.startLed p n).err = s.err := rfl
@[simp] theorem State.startLed_errCode (p : Pixel) (n : Nat) : (s.startLed p n).errCode = s.errCode := rfl
@[simp] theorem State.startLed_nack (p : Pixel) (n : Nat) : (s.startLed p n).nack = s.nack := rfl
@[simp] theorem State.startLed_i2cState (p : Pixel) (n : Nat) : (s.startLed p n).i2cState = s.i2cState := rfl
@[simp] theorem State.startLed_rxdata (p : Pixel) (n : Nat) : (s.startLed p n).rxdata = s.rxdata := rfl
@[simp] theorem State.startLed_mode (p : Pixel) (n : Nat) : (s.startLed p n).mode = .led := rfl
@[simp] theorem State.startLed_sr (p : Pixel) (n : Nat) : (s.startLed p n).sr = p := rfl
@[simp] theorem State.startLed_ph (p : Pixel) (n : Nat) : (s.startLed p n).ph = 0 := rfl
@[simp] theorem State.startLed_bl (p : Pixel) (n : Nat) : (s.startLed p n).bl = n := rfl
@[simp] theorem State.startLed_rem (p : Pixel) (n : Nat) : (s.startLed p n).rem = s.rem := rfl
@[simp] theorem State.startLed_pl (p : Pixel) (n : Nat) : (s.startLed p n).pl = s.pl := rfl
@[simp] theorem State.startLed_pidx (p : Pixel) (n : Nat) : (s.startLed p n).pidx = s.pidx := rfl
@[simp] theorem State.startLed_xact (p : Pixel) (n : Nat) : (s.startLed p n).xact = s.xact := rfl
@[simp] theorem State.startLed_trace (p : Pixel) (n : Nat) : (s.startLed p n).trace = s.trace := rfl
@[simp] theorem State.startLed_chain (p : Pixel) (n : Nat) : (s.startLed p n).chain = s.chain := rfl
@[simp] theorem State.startLed_device (p : Pixel) (n : Nat) : (s.startLed p n).device = s.device := rfl
@[simp] theorem State.startLed_hostQ (p : Pixel) (n : Nat) : (s.startLed p n).hostQ = s.hostQ := rfl
@[simp] theorem State.startLed_prog (p : Pixel) (n : Nat) : (s.startLed p n).prog = s.prog := rfl
@[simp] theorem State.startLed_vars (p : Pixel) (n : Nat) : (s.startLed p n).vars = s.vars := rfl
@[simp] theorem State.startLed_envQ (p : Pixel) (n : Nat) : (s.startLed p n).envQ = s.envQ := rfl
@[simp] theorem State.startLed_tick (p : Pixel) (n : Nat) : (s.startLed p n).tick = s.tick := rfl

/-! ## `State.startDly` -/

@[simp] theorem State.startDly_i2cEn (n : Nat) : (s.startDly n).i2cEn = s.i2cEn := rfl
@[simp] theorem State.startDly_bitrate (n : Nat) : (s.startDly n).bitrate = s.bitrate := rfl
@[simp] theorem State.startDly_done (n : Nat) : (s.startDly n).done = s.done := rfl
@[simp] theorem State.startDly_err (n : Nat) : (s.startDly n).err = s.err := rfl
@[simp] theorem State.startDly_errCode (n : Nat) : (s.startDly n).errCode = s.errCode := rfl
@[simp] theorem State.startDly_nack (n : Nat) : (s.startDly n).nack = s.nack := rfl
@[simp] theorem State.startDly_i2cState (n : Nat) : (s.startDly n).i2cState = s.i2cState := rfl
@[simp] theorem State.startDly_rxdata (n : Nat) : (s.startDly n).rxdata = s.rxdata := rfl
@[simp] theorem State.startDly_mode (n : Nat) : (s.startDly n).mode = .dly := rfl
@[simp] theorem State.startDly_sr (n : Nat) : (s.startDly n).sr = s.sr := rfl
@[simp] theorem State.startDly_ph (n : Nat) : (s.startDly n).ph = s.ph := rfl
@[simp] theorem State.startDly_bl (n : Nat) : (s.startDly n).bl = s.bl := rfl
@[simp] theorem State.startDly_rem (n : Nat) : (s.startDly n).rem = n := rfl
@[simp] theorem State.startDly_pl (n : Nat) : (s.startDly n).pl = s.pl := rfl
@[simp] theorem State.startDly_pidx (n : Nat) : (s.startDly n).pidx = s.pidx := rfl
@[simp] theorem State.startDly_xact (n : Nat) : (s.startDly n).xact = s.xact := rfl
@[simp] theorem State.startDly_trace (n : Nat) : (s.startDly n).trace = s.trace := rfl
@[simp] theorem State.startDly_chain (n : Nat) : (s.startDly n).chain = s.chain := rfl
@[simp] theorem State.startDly_device (n : Nat) : (s.startDly n).device = s.device := rfl
@[simp] theorem State.startDly_hostQ (n : Nat) : (s.startDly n).hostQ = s.hostQ := rfl
@[simp] theorem State.startDly_prog (n : Nat) : (s.startDly n).prog = s.prog := rfl
@[simp] theorem State.startDly_vars (n : Nat) : (s.startDly n).vars = s.vars := rfl
@[simp] theorem State.startDly_envQ (n : Nat) : (s.startDly n).envQ = s.envQ := rfl
@[simp] theorem State.startDly_tick (n : Nat) : (s.startDly n).tick = s.tick := rfl

/-! ## `State.startI2c` -/

@[simp] theorem State.startI2c_i2cEn (l : List Phase) (x : Bool) : (s.startI2c l x).i2cEn = s.i2cEn := rfl
@[simp] theorem State.startI2c_bitrate (l : List Phase) (x : Bool) : (s.startI2c l x).bitrate = s.bitrate := rfl
@[simp] theorem State.startI2c_done (l : List Phase) (x : Bool) : (s.startI2c l x).done = s.done := rfl
@[simp] theorem State.startI2c_err (l : List Phase) (x : Bool) : (s.startI2c l x).err = s.err := rfl
@[simp] theorem State.startI2c_errCode (l : List Phase) (x : Bool) : (s.startI2c l x).errCode = s.errCode := rfl
@[simp] theorem State.startI2c_nack (l : List Phase) (x : Bool) : (s.startI2c l x).nack = false := rfl
@[simp] theorem State.startI2c_i2cState (l : List Phase) (x : Bool) : (s.startI2c l x).i2cState = s.i2cState := rfl
@[simp] theorem State.startI2c_rxdata (l : List Phase) (x : Bool) : (s.startI2c l x).rxdata = s.rxdata := rfl
@[simp] theorem State.startI2c_mode (l : List Phase) (x : Bool) : (s.startI2c l x).mode = .i2c := rfl
@[simp] theorem State.startI2c_sr (l : List Phase) (x : Bool) : (s.startI2c l x).sr = s.sr := rfl
@[simp] theorem State.startI2c_ph (l : List Phase) (x : Bool) : (s.startI2c l x).ph = s.ph := rfl
@[simp] theorem State.startI2c_bl (l : List Phase) (x : Bool) : (s.startI2c l x).bl = s.bl := rfl
@[simp] theorem State.startI2c_rem (l : List Phase) (x : Bool) : (s.startI2c l x).rem = s.rem := rfl
@[simp] theorem State.startI2c_pl (l : List Phase) (x : Bool) : (s.startI2c l x).pl = l := rfl
@[simp] theorem State.startI2c_pidx (l : List Phase) (x : Bool) : (s.startI2c l x).pidx = 0 := rfl
@[simp] theorem State.startI2c_xact (l : List Phase) (x : Bool) : (s.startI2c l x).xact = x := rfl
@[simp] theorem State.startI2c_trace (l : List Phase) (x : Bool) : (s.startI2c l x).trace = s.trace := rfl
@[simp] theorem State.startI2c_chain (l : List Phase) (x : Bool) : (s.startI2c l x).chain = s.chain := rfl
@[simp] theorem State.startI2c_device (l : List Phase) (x : Bool) : (s.startI2c l x).device = s.device := rfl
@[simp] theorem State.startI2c_hostQ (l : List Phase) (x : Bool) : (s.startI2c l x).hostQ = s.hostQ := rfl
@[simp] theorem State.startI2c_prog (l : List Phase) (x : Bool) : (s.startI2c l x).prog = s.prog := rfl
@[simp] theorem State.startI2c_vars (l : List Phase) (x : Bool) : (s.startI2c l x).vars = s.vars := rfl
@[simp] theorem State.startI2c_envQ (l : List Phase) (x : Bool) : (s.startI2c l x).envQ = s.envQ := rfl
@[simp] theorem State.startI2c_tick (l : List Phase) (x : Bool) : (s.startI2c l x).tick = s.tick := rfl

/-! ## `endCycle`: `b` is the state in the cycle, `s` the block after its edge -/

@[simp] theorem endCycle_i2cEn (b : State) : (endCycle b s).i2cEn = s.i2cEn := rfl
@[simp] theorem endCycle_bitrate (b : State) : (endCycle b s).bitrate = s.bitrate := rfl
@[simp] theorem endCycle_done (b : State) : (endCycle b s).done = s.done := rfl
@[simp] theorem endCycle_err (b : State) : (endCycle b s).err = s.err := rfl
@[simp] theorem endCycle_errCode (b : State) : (endCycle b s).errCode = s.errCode := rfl
@[simp] theorem endCycle_nack (b : State) : (endCycle b s).nack = s.nack := rfl
@[simp] theorem endCycle_i2cState (b : State) : (endCycle b s).i2cState = s.i2cState := rfl
@[simp] theorem endCycle_rxdata (b : State) : (endCycle b s).rxdata = s.rxdata := rfl
@[simp] theorem endCycle_mode (b : State) : (endCycle b s).mode = s.mode := rfl
@[simp] theorem endCycle_sr (b : State) : (endCycle b s).sr = s.sr := rfl
@[simp] theorem endCycle_ph (b : State) : (endCycle b s).ph = s.ph := rfl
@[simp] theorem endCycle_bl (b : State) : (endCycle b s).bl = s.bl := rfl
@[simp] theorem endCycle_rem (b : State) : (endCycle b s).rem = s.rem := rfl
@[simp] theorem endCycle_pl (b : State) : (endCycle b s).pl = s.pl := rfl
@[simp] theorem endCycle_pidx (b : State) : (endCycle b s).pidx = s.pidx := rfl
@[simp] theorem endCycle_xact (b : State) : (endCycle b s).xact = s.xact := rfl
@[simp] theorem endCycle_trace (b : State) : (endCycle b s).trace = s.trace := rfl
@[simp] theorem endCycle_chain (b : State) : (endCycle b s).chain = b.chainNext := rfl
@[simp] theorem endCycle_device (b : State) : (endCycle b s).device = s.device := rfl
@[simp] theorem endCycle_hostQ (b : State) : (endCycle b s).hostQ = b.hostQ.tail := rfl
@[simp] theorem endCycle_prog (b : State) : (endCycle b s).prog = (if b.pins.act = .program then programNext b.prog (b.hrdata.getD 0) else b.prog) := rfl
@[simp] theorem endCycle_vars (b : State) : (endCycle b s).vars = (if b.pins.act = .program then varsNext b.prog b.vars (b.hrdata.getD 0) else b.vars) := rfl
@[simp] theorem endCycle_envQ (b : State) : (endCycle b s).envQ = b.envQ.tail := rfl
@[simp] theorem endCycle_tick (b : State) : (endCycle b s).tick = b.tick + 1 := rfl

/-! ## `State.chainSampled` and `State.chainNext`: a sample of DOUT, and what a reset does to the chain -/

@[simp] theorem State.chainSampled_cut :
    s.chainSampled.cut = ((s.chain.sample Config.params s.dout (s.tick + 1)).cut || s.cutsPulse) := rfl
@[simp] theorem State.chainSampled_high :
    s.chainSampled.high = (s.chain.sample Config.params s.dout (s.tick + 1)).high := rfl
@[simp] theorem State.chainSampled_low :
    s.chainSampled.low = (s.chain.sample Config.params s.dout (s.tick + 1)).low := rfl
@[simp] theorem State.chainSampled_pending :
    s.chainSampled.pending = (s.chain.sample Config.params s.dout (s.tick + 1)).pending := rfl
@[simp] theorem State.chainSampled_bad :
    s.chainSampled.bad = (s.chain.sample Config.params s.dout (s.tick + 1)).bad := rfl
@[simp] theorem State.chainSampled_afterReset :
    s.chainSampled.afterReset = (s.chain.sample Config.params s.dout (s.tick + 1)).afterReset := rfl
@[simp] theorem State.chainSampled_disp :
    s.chainSampled.disp = (s.chain.sample Config.params s.dout (s.tick + 1)).disp := rfl

/-- Only a reset cuts a pulse. -/
theorem State.cutsPulse_of_not_resetting {s : State} (h : s.resetting = false) : s.cutsPulse = false := by
  simp [State.cutsPulse, h]

/-- Where no reset cuts a pulse, the chain does nothing but sample DOUT. -/
theorem State.chainSampled_of_not_cut {s : State} (h : s.cutsPulse = false) :
    s.chainSampled = s.chain.sample Config.params s.dout (s.tick + 1) := by
  simp [State.chainSampled, h]

/-- Without a reset the chain does nothing but sample DOUT. -/
theorem State.chainNext_of_not_resetting {s : State} (h : s.resetting = false) :
    s.chainNext = s.chain.sample Config.params s.dout (s.tick + 1) := by
  rw [← State.chainSampled_of_not_cut (State.cutsPulse_of_not_resetting h)]
  simp [State.chainNext, h]

/-- At a reset the chain samples DOUT and is marked. -/
theorem State.chainNext_of_resetting {s : State} (h : s.resetting = true) : s.chainNext = s.chainSampled.markReset := by
  simp [State.chainNext, h]

/-- What a cycle can do to the chain: it samples DOUT, and a reset marks it. -/
theorem State.chainNext_cases (s : State) :
    s.chainNext = s.chainSampled ∨ (s.resetting = true ∧ s.chainNext = s.chainSampled.markReset) := by
  cases h : s.resetting with
  | false => exact .inl (by simp [State.chainNext, h])
  | true => exact .inr ⟨rfl, State.chainNext_of_resetting h⟩

/-! ## `State.resetBlock`: the values of ResetState (10_state R54), and what is not the block's -/

@[simp] theorem State.resetBlock_i2cEn : s.resetBlock.i2cEn = false := rfl
@[simp] theorem State.resetBlock_bitrate : s.resetBlock.bitrate = 0 := rfl
@[simp] theorem State.resetBlock_done : s.resetBlock.done = false := rfl
@[simp] theorem State.resetBlock_err : s.resetBlock.err = false := rfl
@[simp] theorem State.resetBlock_errCode : s.resetBlock.errCode = .none := rfl
@[simp] theorem State.resetBlock_nack : s.resetBlock.nack = false := rfl
@[simp] theorem State.resetBlock_i2cState : s.resetBlock.i2cState = .idle := rfl
@[simp] theorem State.resetBlock_rxdata : s.resetBlock.rxdata = 0 := rfl
@[simp] theorem State.resetBlock_mode : s.resetBlock.mode = .idle := rfl
@[simp] theorem State.resetBlock_sr : s.resetBlock.sr = 0 := rfl
@[simp] theorem State.resetBlock_ph : s.resetBlock.ph = 0 := rfl
@[simp] theorem State.resetBlock_bl : s.resetBlock.bl = 0 := rfl
@[simp] theorem State.resetBlock_rem : s.resetBlock.rem = 0 := rfl
@[simp] theorem State.resetBlock_pl : s.resetBlock.pl = [] := rfl
@[simp] theorem State.resetBlock_pidx : s.resetBlock.pidx = 0 := rfl
@[simp] theorem State.resetBlock_xact : s.resetBlock.xact = false := rfl
@[simp] theorem State.resetBlock_trace :
    s.resetBlock.trace = if s.abandons then s.trace ++ [.x] else s.trace := by
  unfold State.resetBlock; split <;> rfl
@[simp] theorem State.resetBlock_chain : s.resetBlock.chain = s.chain := by
  unfold State.resetBlock; split <;> rfl
@[simp] theorem State.resetBlock_device :
    s.resetBlock.device = if s.abandons then s.device.hear .x s.env.take else s.device := by
  unfold State.resetBlock; split <;> rfl
@[simp] theorem State.resetBlock_hostQ : s.resetBlock.hostQ = s.hostQ := by
  unfold State.resetBlock; split <;> rfl
@[simp] theorem State.resetBlock_prog : s.resetBlock.prog = s.prog := by
  unfold State.resetBlock; split <;> rfl
@[simp] theorem State.resetBlock_vars : s.resetBlock.vars = s.vars := by
  unfold State.resetBlock; split <;> rfl
@[simp] theorem State.resetBlock_envQ : s.resetBlock.envQ = s.envQ := by
  unfold State.resetBlock; split <;> rfl
@[simp] theorem State.resetBlock_tick : s.resetBlock.tick = s.tick := by
  unfold State.resetBlock; split <;> rfl

/-! ## `State.presentWord` -/

@[simp] theorem State.presentWord_i2cEn (w : Word) : (s.presentWord w).i2cEn = s.i2cEn := rfl
@[simp] theorem State.presentWord_bitrate (w : Word) : (s.presentWord w).bitrate = s.bitrate := rfl
@[simp] theorem State.presentWord_done (w : Word) : (s.presentWord w).done = s.done := rfl
@[simp] theorem State.presentWord_err (w : Word) : (s.presentWord w).err = s.err := rfl
@[simp] theorem State.presentWord_errCode (w : Word) : (s.presentWord w).errCode = s.errCode := rfl
@[simp] theorem State.presentWord_nack (w : Word) : (s.presentWord w).nack = s.nack := rfl
@[simp] theorem State.presentWord_i2cState (w : Word) : (s.presentWord w).i2cState = s.i2cState := rfl
@[simp] theorem State.presentWord_rxdata (w : Word) : (s.presentWord w).rxdata = s.rxdata := rfl
@[simp] theorem State.presentWord_mode (w : Word) : (s.presentWord w).mode = s.mode := rfl
@[simp] theorem State.presentWord_sr (w : Word) : (s.presentWord w).sr = s.sr := rfl
@[simp] theorem State.presentWord_ph (w : Word) : (s.presentWord w).ph = s.ph := rfl
@[simp] theorem State.presentWord_bl (w : Word) : (s.presentWord w).bl = s.bl := rfl
@[simp] theorem State.presentWord_rem (w : Word) : (s.presentWord w).rem = s.rem := rfl
@[simp] theorem State.presentWord_pl (w : Word) : (s.presentWord w).pl = s.pl := rfl
@[simp] theorem State.presentWord_pidx (w : Word) : (s.presentWord w).pidx = s.pidx := rfl
@[simp] theorem State.presentWord_xact (w : Word) : (s.presentWord w).xact = s.xact := rfl
@[simp] theorem State.presentWord_trace (w : Word) : (s.presentWord w).trace = s.trace := rfl
@[simp] theorem State.presentWord_chain (w : Word) : (s.presentWord w).chain = s.chain := rfl
@[simp] theorem State.presentWord_device (w : Word) : (s.presentWord w).device = s.device := rfl
@[simp] theorem State.presentWord_hostQ (w : Word) : (s.presentWord w).hostQ = ({ rst := false, act := .access (.write HostReg.cmd.offset .word w) } :: s.hostQ.tail) := rfl
@[simp] theorem State.presentWord_prog (w : Word) : (s.presentWord w).prog = s.prog := rfl
@[simp] theorem State.presentWord_vars (w : Word) : (s.presentWord w).vars = s.vars := rfl
@[simp] theorem State.presentWord_envQ (w : Word) : (s.presentWord w).envQ = s.envQ := rfl
@[simp] theorem State.presentWord_tick (w : Word) : (s.presentWord w).tick = s.tick := rfl

end Sys2Proof.Machine
end

