-- ==== Sys2Proof/Laws/Ops.lean ====
section
/-! SUPPORT. What each shared operation can do, said once: the edge, acceptance, the advance of the active command, and a
step. Later proofs cite these instead of unfolding. -/
namespace Sys2Proof.Machine

/-! ## The edge -/

/-- An edge without reset answers a next state exactly from a sequencer state the rules describe. -/
theorem onEdge_eq_next {s t : State} {f : State → State} :
    onEdge s f = .next t ↔ s.seqOk = true ∧ t = f s.advance := by
  unfold onEdge
  split
  · next h => exact ⟨fun e => ⟨h, by injection e with e; exact e.symm⟩, fun e => by rw [e.2]⟩
  · next h => exact ⟨fun e => (nomatch e), fun e => absurd e.1 h⟩

theorem onEdge_of_seqOk {s : State} (f : State → State) (h : s.seqOk = true) : onEdge s f = .next (f s.advance) := by
  simp [onEdge, h]

/-! ## Commands -/

/-- The gate of a command (10_state R49). -/
def gateOf : Instr → State → Option ErrCode
  | .emit0 | .emit1 | .wcolor _ _ _ | .dlys | .dlyl | .dlyn _ => openGate
  | .i2cStart => i2cGate legalStart
  | .i2cRestart => i2cGate legalRestart
  | .i2cStop => i2cGate legalStop
  | .i2cTx b => i2cGate (legalTx b)
  | .i2cRxn => i2cGate legalRxn
  | .i2cWreg _ _ _ => i2cGate legalWreg
  | .i2cRreg _ _ => i2cGate legalRreg

/-- The Start of a command. -/
def startOf : Instr → State → State
  | .emit0, s => s.startLed 0x000000 1
  | .emit1, s => s.startLed 0x800000 1
  | .wcolor r g b, s => s.startLed (pixelWord r g b) pixelBits
  | .dlys, s => s.startDly Config.params.shortCycles
  | .dlyl, s => s.startDly Config.params.longCycles
  | .dlyn n, s => s.startDly (delayCycles Config.params n)
  | .i2cStart, s => s.startI2c [.start] false
  | .i2cRestart, s => s.startI2c [.restart] false
  | .i2cStop, s => s.startI2c [.stop] false
  | .i2cTx b, s => s.startI2c [.tx b] false
  | .i2cRxn, s => s.startI2c [.rxb, .nak] false
  | .i2cWreg a r d, s => s.startI2c (wregPhases a r d) true
  | .i2cRreg a r, s => s.startI2c (rregPhases a r) true

/-- Every meaning is the edge with the acceptance of its command. -/
theorem exec_eq_onEdge (i : Instr) (s : State) :
    exec i s = onEdge s fun s1 => acceptCommand s s1 (gateOf i) (startOf i) := by
  cases i <;> rfl

/-! ## Acceptance: the three things it can do (10_state R49) -/

theorem acceptCommand_busy {now : State} (s : State) (gate : State → Option ErrCode) (start : State → State)
    (h : now.busy = true) : acceptCommand now s gate start = s.raise .ovr := by
  simp [acceptCommand, h]

theorem acceptCommand_rejected {now s : State} {gate : State → Option ErrCode} {code : ErrCode} (start : State → State)
    (h : now.busy = false) (hg : gate s.clearDone = some code) :
    acceptCommand now s gate start = s.clearDone.reject code := by
  simp [acceptCommand, h, hg]

theorem acceptCommand_started {now s : State} {gate : State → Option ErrCode} (start : State → State)
    (h : now.busy = false) (hg : gate s.clearDone = none) :
    acceptCommand now s gate start = (start s.clearDone).started := by
  simp [acceptCommand, h, hg]

theorem acceptCommand_cases (now s : State) (gate : State → Option ErrCode) (start : State → State) :
    (now.busy = true ∧ acceptCommand now s gate start = s.raise .ovr) ∨
    (now.busy = false ∧ ∃ code, gate s.clearDone = some code ∧
      acceptCommand now s gate start = s.clearDone.reject code) ∨
    (now.busy = false ∧ gate s.clearDone = none ∧ acceptCommand now s gate start = (start s.clearDone).started) := by
  cases hb : now.busy with
  | true => exact .inl ⟨rfl, acceptCommand_busy _ _ _ hb⟩
  | false =>
    cases hg : gate s.clearDone with
    | some code => exact .inr (.inl ⟨rfl, code, rfl, acceptCommand_rejected _ hb hg⟩)
    | none => exact .inr (.inr ⟨rfl, rfl, acceptCommand_started _ hb hg⟩)

theorem i2cGate_eq_none {legal : I2cState → Bool} {s : State} :
    i2cGate legal s = none ↔ s.i2cEn = true ∧ legal s.i2cState = true := by
  unfold i2cGate
  cases s.i2cEn <;> cases legal s.i2cState <;> simp

/-! ## The advance of the active command (10_state R46 step 1) -/

/-- From a state that can accept a command, the advance only ends the command before it. -/
theorem advance_of_not_busy {s : State} (hs : s.seqOk = true) (hb : s.busy = false) :
    s.advance = { s with mode := .idle, rem := if s.mode = .dly then 0 else s.rem, done := s.done } := by
  cases hm : s.mode with
  | idle => cases s; simp_all [State.advance]
  | led => cases s; simp_all [State.advance, State.advanceLed, State.busy]
  | dly =>
    have hr : s.rem = 1 := by
      simp [State.seqOk, State.busy, hm] at hs hb
      omega
    cases s; simp_all [State.advance, State.advanceDly]
  | i2c => simp [State.busy, hm] at hb

/-- One cycle of an LED command that is not in its final cycle. -/
theorem advance_led {s : State} (hm : s.mode = .led) (hf : s.final = false) :
    s.advance =
      (if s.ph < bitPeriod - 1 then
        { s with ph := s.ph + 1, done := s.done || ({ s with ph := s.ph + 1 } : State).final }
      else
        { s with
          ph := 0, sr := s.sr <<< 1, bl := s.bl - 1
          done := s.done || ({ s with ph := 0, sr := s.sr <<< 1, bl := s.bl - 1 } : State).final }) := by
  simp only [State.advance, hm, State.advanceLed, hf, Bool.false_eq_true, if_false]
  split <;> rfl

/-- One cycle of a delay with at least two cycles left. -/
theorem advance_dly {s : State} (hm : s.mode = .dly) (hr : 2 ≤ s.rem) :
    s.advance = { s with rem := s.rem - 1, done := s.done || decide (s.rem = 2) } := by
  have h0 : s.rem - 1 ≠ 0 := by omega
  have h1 : (s.rem - 1 = 1) ↔ s.rem = 2 := by omega
  cases s
  simp_all [State.advance, State.advanceDly]

/-- A cycle of an I2C command in which the environment completes no phase changes nothing. -/
theorem advance_i2c_waits {s : State} (hm : s.mode = .i2c) (he : s.env.done = false) : s.advance = s := by
  simp [State.advance, hm, State.advanceI2c, he]

/-- A phase completes that is not the last one. -/
theorem advance_i2c_phase {s : State} {q : Phase} (hm : s.mode = .i2c) (he : s.env.done = true)
    (hq : s.pl[s.pidx]? = some q) (hl : s.pidx + 1 ≠ s.pl.length) :
    s.advance = { s.applyPhase q with pidx := s.pidx + 1 } := by
  simp [State.advance, hm, State.advanceI2c, he, hq, hl]

/-- The last phase completes, and with it the command. -/
theorem advance_i2c_last {s : State} {q : Phase} (hm : s.mode = .i2c) (he : s.env.done = true)
    (hq : s.pl[s.pidx]? = some q) (hl : s.pidx + 1 = s.pl.length) :
    s.advance = ({ s.applyPhase q with pidx := s.pidx + 1 } : State).finishI2c := by
  simp [State.advance, hm, State.advanceI2c, he, hq, hl]

/-- In I2C mode one of these three holds. -/
theorem advance_i2c_cases {s : State} (hm : s.mode = .i2c) (hs : s.seqOk = true) :
    (s.env.done = false ∧ s.advance = s) ∨
    ∃ q, s.env.done = true ∧ s.pl[s.pidx]? = some q ∧
      ((s.pidx + 1 ≠ s.pl.length ∧ s.advance = { s.applyPhase q with pidx := s.pidx + 1 }) ∨
       (s.pidx + 1 = s.pl.length ∧ s.advance = ({ s.applyPhase q with pidx := s.pidx + 1 } : State).finishI2c)) := by
  have hlt : s.pidx < s.pl.length := by simpa [State.seqOk, hm] using hs
  have hq : s.pl[s.pidx]? = some (s.pl[s.pidx]'hlt) := List.getElem?_eq_getElem hlt
  cases he : s.env.done with
  | false => exact .inl ⟨rfl, advance_i2c_waits hm he⟩
  | true =>
    refine .inr ⟨_, rfl, hq, ?_⟩
    by_cases hl : s.pidx + 1 = s.pl.length
    · exact .inr ⟨hl, advance_i2c_last hm he hq hl⟩
    · exact .inl ⟨hl, advance_i2c_phase hm he hq hl⟩

/-! ## A step -/

/-- What the host's access of the cycle does to the state after step 1 (10_state R46 step 2). -/
def accessEffect (now : State) : PortAccess → State → State
  | .none, s => s
  | .read _, s => s
  | .narrow, s => s
  | .write k v, s =>
    match k.toNat with
    | 0 => writeCtrl v now s
    | 1 => writeStatus v now s
    | 2 =>
      match decode v with
      | .command i => acceptCommand now s (gateOf i) (startOf i)
      | .illegal _ => acceptCommand now s illegalGate id
    | 4 => writeBitrate v now s
    | _ => s

theorem runWord_eq_onEdge (v : Word) (s : State) :
    runWord v s = onEdge s fun s1 =>
      match decode v with
      | .command i => acceptCommand s s1 (gateOf i) (startOf i)
      | .illegal _ => acceptCommand s s1 illegalGate id := by
  unfold runWord
  cases decode v with
  | command i => exact exec_eq_onEdge i s
  | illegal why => rfl

theorem writeWord_eq_onEdge (k : BitVec 3) (v : Word) (s : State) :
    writeWord k v s = onEdge s (accessEffect s (.write k v)) := by
  unfold writeWord accessEffect
  split <;> simp only [*]
  · exact runWord_eq_onEdge v s
  · rfl

/-- A step without reset, of an access the block defines, is the edge with that access, then the end of the cycle. -/
theorem step_eq {s : State} (hr : s.resetting = false) (hn : s.port ≠ .narrow) :
    step s = withEndCycle s (onEdge s (accessEffect s s.port)) := by
  unfold step clockCycle blockEdge
  cases hp : s.port with
  | none => simp [hr]; rfl
  | read k => simp [hr]; rfl
  | narrow => exact absurd hp hn
  | write k v => simp [hr, writeWord_eq_onEdge]

theorem step_reset {s : State} (hr : s.resetting = true) : step s = .next (endCycle s s.resetBlock) := by
  simp [step, clockCycle, blockEdge, hr, withEndCycle]

theorem step_narrow {s : State} (hr : s.resetting = false) (hn : s.port = .narrow) :
    step s = .refused .narrowAccess := by
  simp [step, clockCycle, blockEdge, hr, hn, withEndCycle]

/-- All a step that answers a next state can be. -/
theorem step_next_cases {s t : State} (h : step s = .next t) :
    (s.resetting = true ∧ t = endCycle s s.resetBlock) ∨
    (s.resetting = false ∧ s.port ≠ .narrow ∧ s.seqOk = true ∧ t = endCycle s (accessEffect s s.port s.advance)) := by
  cases hr : s.resetting with
  | true =>
    rw [step_reset hr] at h
    exact .inl ⟨rfl, by injection h with h; exact h.symm⟩
  | false =>
    by_cases hn : s.port = .narrow
    · rw [step_narrow hr hn] at h; cases h
    · rw [step_eq hr hn] at h
      cases hs : s.seqOk with
      | false => simp [onEdge, hs, withEndCycle] at h
      | true =>
        rw [onEdge_of_seqOk _ hs] at h
        exact .inr ⟨rfl, hn, rfl, by injection h with h; exact h.symm⟩

/-- A step without reset from a state the rules describe. -/
theorem step_of_seqOk {s : State} (hr : s.resetting = false) (hn : s.port ≠ .narrow) (hs : s.seqOk = true) :
    step s = .next (endCycle s (accessEffect s s.port s.advance)) := by
  rw [step_eq hr hn, onEdge_of_seqOk _ hs]
  rfl

end Sys2Proof.Machine
end

