-- ==== Sys2Proof/Laws/PerInstr.lean ====
section
/-! SUPPORT. Statements for all commands, one lemma per constructor of Instr: the fixed part of a command's word. -/
namespace Sys2Proof.Laws

/-- The opcode of a mnemonic (30_encoding R87). -/
def opcodeOf : Mnemonic → BitVec 4
  | .emit0 => 0x1
  | .emit1 => 0x2
  | .wcolor => 0x3
  | .dlys => 0x4
  | .dlyl => 0x5
  | .dlyn => 0x6
  | .i2cStart => 0x8
  | .i2cRestart => 0x9
  | .i2cStop => 0xA
  | .i2cTx => 0xB
  | .i2cRxn => 0xC
  | .i2cWreg => 0xD
  | .i2cRreg => 0xE

/-- The opcode field of a packed word. -/
theorem packWord_opcode (op : BitVec 4) (fields : BitVec 24) : (packWord op fields).extractLsb' 28 4 = op := by
  unfold packWord
  rw [BitVec.extractLsb'_append_eq_of_le (by decide), BitVec.extractLsb'_append_eq_of_le (by decide)]
  exact BitVec.extractLsb'_eq_self

/-- The reserved nibble of a packed word. -/
theorem packWord_reserved (op : BitVec 4) (fields : BitVec 24) : (packWord op fields).extractLsb' 24 4 = 0 := by
  unfold packWord
  rw [BitVec.extractLsb'_append_eq_of_le (by decide), BitVec.extractLsb'_append_eq_of_add_le (by decide)]
  exact BitVec.extractLsb'_eq_self

/-- The operand fields of a packed word. -/
theorem packWord_fields (op : BitVec 4) (fields : BitVec 24) : (packWord op fields).extractLsb' 0 24 = fields := by
  unfold packWord
  rw [BitVec.extractLsb'_append_eq_of_add_le (by decide)]
  exact BitVec.extractLsb'_eq_self

end Sys2Proof.Laws

namespace Sys2Proof.Laws.EncodeFixedBits

/-- The word of a command carries its mnemonic's opcode in bits 31:28 and zero in bits 27:24 (30_encoding R79, R87). -/
def Statement (i : Instr) : Prop :=
  (encode i).extractLsb' 28 4 = opcodeOf i.mnemonic ∧ (encode i).extractLsb' 24 4 = 0

theorem emit0 : Statement .emit0 := ⟨packWord_opcode _ _, packWord_reserved _ _⟩
theorem emit1 : Statement .emit1 := ⟨packWord_opcode _ _, packWord_reserved _ _⟩
theorem wcolor (r g b : Byte) : Statement (.wcolor r g b) := ⟨packWord_opcode _ _, packWord_reserved _ _⟩
theorem dlys : Statement .dlys := ⟨packWord_opcode _ _, packWord_reserved _ _⟩
theorem dlyl : Statement .dlyl := ⟨packWord_opcode _ _, packWord_reserved _ _⟩
theorem dlyn (n : BitVec 16) : Statement (.dlyn n) := ⟨packWord_opcode _ _, packWord_reserved _ _⟩
theorem i2cStart : Statement .i2cStart := ⟨packWord_opcode _ _, packWord_reserved _ _⟩
theorem i2cRestart : Statement .i2cRestart := ⟨packWord_opcode _ _, packWord_reserved _ _⟩
theorem i2cStop : Statement .i2cStop := ⟨packWord_opcode _ _, packWord_reserved _ _⟩
theorem i2cTx (data : Byte) : Statement (.i2cTx data) := ⟨packWord_opcode _ _, packWord_reserved _ _⟩
theorem i2cRxn : Statement .i2cRxn := ⟨packWord_opcode _ _, packWord_reserved _ _⟩
theorem i2cWreg (addr : BitVec 7) (reg data : Byte) : Statement (.i2cWreg addr reg data) :=
  ⟨packWord_opcode _ _, packWord_reserved _ _⟩
theorem i2cRreg (addr : BitVec 7) (reg : Byte) : Statement (.i2cRreg addr reg) :=
  ⟨packWord_opcode _ _, packWord_reserved _ _⟩

end Sys2Proof.Laws.EncodeFixedBits
end

