-- ==== Sys2Proof/Laws/Runs.lean ====
section
/-! SUPPORT. What a step does while BUSY = 1, what a cycle keeps of the LED chain, and induction over the runs of
Safety.lean. -/
namespace Sys2Proof.Machine

/-- While BUSY = 1 a host access can only record OVR, or clear DONE where DONE is not set at the same edge (10_state R36,
R46 step 2, R49). -/
theorem accessEffect_busy {now : State} (h : now.busy = true) (p : PortAccess) (s : State) :
    accessEffect now p s = s ∨ accessEffect now p s = s.raise .ovr ∨
      (accessEffect now p s = s.clearDone ∧ ¬ (s.done = true ∧ now.done = false)) := by
  unfold accessEffect
  split
  · exact .inl rfl
  · exact .inl rfl
  · exact .inl rfl
  · split
    · exact .inr (.inl (by simp [writeCtrl, h]))
    · unfold writeStatus
      split
      · next hc =>
        refine .inr (.inr ⟨rfl, fun hd => ?_⟩)
        simp [hd.1, hd.2] at hc
      · exact .inl rfl
    · split <;> exact .inr (.inl (acceptCommand_busy _ _ _ h))
    · exact .inr (.inl (by simp [writeBitrate, h]))
    · exact .inl rfl

/-- A step without reset from a busy state, as far as the sequencer goes: it is the advance, whatever the host does. -/
theorem step_busy {s t : State} (hb : s.busy = true) (hr : s.resetting = false) (h : step s = .next t) :
    s.seqOk = true ∧ t.mode = s.advance.mode ∧ t.sr = s.advance.sr ∧ t.ph = s.advance.ph ∧ t.bl = s.advance.bl ∧
      t.rem = s.advance.rem ∧ t.pl = s.advance.pl ∧ t.pidx = s.advance.pidx ∧ t.xact = s.advance.xact ∧
      t.nack = s.advance.nack ∧ t.rxdata = s.advance.rxdata ∧ t.trace = s.advance.trace ∧ t.device = s.advance.device ∧
      t.i2cEn = s.advance.i2cEn ∧ t.bitrate = s.advance.bitrate ∧
      (s.done = false → t.done = s.advance.done) ∧
      (s.done = false ∧ s.advance.done = true ∨ s.advance.i2cState ≠ .stopSent → t.i2cState = s.advance.i2cState) := by
  have hn : s.port ≠ .narrow := fun hp => by rw [step_narrow hr hp] at h; exact nomatch h
  by_cases hs : s.seqOk = true
  · rw [step_of_seqOk hr hn hs] at h
    injection h with h
    subst h
    refine ⟨hs, ?_⟩
    rcases accessEffect_busy hb s.port s.advance with e | e | ⟨e, hd⟩
    · simp [e]
    · simp [e, State.raise]
    · have keep : s.advance.i2cState ≠ .stopSent → s.advance.i2cState.afterClear = s.advance.i2cState := by
        cases s.advance.i2cState <;> simp [I2cState.afterClear]
      simp only [endCycle_mode, endCycle_sr, endCycle_ph, endCycle_bl, endCycle_rem, endCycle_pl, endCycle_pidx,
        endCycle_xact, endCycle_nack, endCycle_rxdata, endCycle_trace, endCycle_device, endCycle_i2cEn, endCycle_bitrate,
        endCycle_done, endCycle_i2cState, e, State.clearDone, true_and]
      refine ⟨fun h0 => ?_, fun hc => ?_⟩
      · cases ha : s.advance.done with
        | false => rfl
        | true => exact absurd ⟨ha, h0⟩ hd
      · rcases hc with hc | hc
        · exact absurd ⟨hc.2, hc.1⟩ hd
        · exact keep hc
  · rw [step_eq hr hn] at h
    simp [onEdge, hs, withEndCycle] at h

/-- What every such step keeps holds at the end of the run. -/
theorem RunsWhile.keeps {p inv : State → Bool}
    (keep : ∀ s t : State, inv s = true → p s = true → s.resetting = false → step s = .next t → inv t = true) :
    ∀ {n : Nat} {s t : State}, RunsWhile p n s t → inv s = true → inv t = true
  | 0, _, _, h, hi => by cases h; exact hi
  | _ + 1, _, _, ⟨hp, hr, _, hu, h⟩, hi => RunsWhile.keeps keep h (keep _ _ hi hp hr hu)

/-- Runs compose. -/
theorem RunsWhile.trans {p : State → Bool} :
    ∀ {n m : Nat} {s t u : State}, RunsWhile p n s t → RunsWhile p m t u → RunsWhile p (n + m) s u
  | 0, m, _, _, _, h, h' => by cases h; rwa [Nat.zero_add]
  | n + 1, m, _, _, _, ⟨hp, hr, v, hv, h⟩, h' => by
    rw [Nat.add_right_comm]
    exact ⟨hp, hr, v, hv, RunsWhile.trans h h'⟩

/-- No cycle changes the number of cells. -/
@[simp] theorem State.chainNext_cells (s : State) : s.chainNext.disp.length = s.chain.disp.length := by
  rcases s.chainNext_cases with e | ⟨_, e⟩ <;> simp [e]

/-- No cycle leaves a pulse open for LATCH_CYCLES low cycles. -/
theorem State.chainNext_pulse_open {s : State} (hp : 0 < Config.params.latchCycles)
    (h : 0 < s.chain.high → s.chain.low < Config.params.latchCycles) :
    0 < s.chainNext.high → s.chainNext.low < Config.params.latchCycles := by
  rcases s.chainNext_cases with e | ⟨_, e⟩ <;> rw [e]
  · exact LedChain.sample_pulse_open s.dout (s.tick + 1) hp h
  · intro ho
    rw [LedChain.markReset_high] at ho
    rw [LedChain.markReset_low_of_open (Nat.pos_iff_ne_zero.mp ho)]
    exact LedChain.sample_pulse_open s.dout (s.tick + 1) hp h ho

/-- No cycle leaves bits pending with no pulse open. -/
theorem State.chainNext_pending_open {s : State} (h : s.chain.high = 0 → s.chain.pending = []) :
    s.chainNext.high = 0 → s.chainNext.pending = [] := by
  rcases s.chainNext_cases with e | ⟨_, e⟩ <;> rw [e] <;>
    exact LedChain.sample_pending_open s.dout (s.tick + 1) h

/-- Sampling levels one after the other. -/
theorem LedChain.sampleAll_append (p : Params) : ∀ (before after : List Bool) (c : LedChain) (serial : Nat),
    c.sampleAll p (before ++ after) serial = (c.sampleAll p before serial).sampleAll p after (serial + before.length)
  | [], _, _, _ => rfl
  | level :: before, after, c, serial => by
    simp only [List.cons_append, LedChain.sampleAll, LedChain.sampleAll_append p before after, List.length_cons]
    congr 1
    omega

/-- A low run that does not reach LATCH_CYCLES changes nothing but its length. -/
theorem LedChain.sampleAll_low (p : Params) : ∀ (n : Nat) (c : LedChain) (serial : Nat), c.low + n < p.latchCycles →
    c.sampleAll p (List.replicate n false) serial = { c with low := c.low + n }
  | 0, _, _, _ => rfl
  | n + 1, c, serial, h => by
    rw [List.replicate_succ, LedChain.sampleAll, LedChain.sample_low (by omega),
      LedChain.sampleAll_low p n _ _ (by simp only; omega)]
    simp only [LedChain.mk.injEq, true_and, and_true]
    omega

end Sys2Proof.Machine
end

