-- ==== Sys2Proof/Machine/Assembler.lean ====
section
/-! DEFINITION. The assembler of written commands (30_encoding R95, R96): a mnemonic, then its operands separated by commas,
each a numeral in decimal, `0x` hexadecimal or `0b` binary. The text is a list of characters. -/
namespace Sys2Proof.Machine

/-- A digit of a base, with letters in either case above 9. -/
def digitValue (base : Nat) (c : Char) : Option Nat :=
  let value : Nat :=
    if '0'.toNat ≤ c.toNat ∧ c.toNat ≤ '9'.toNat then c.toNat - '0'.toNat
    else if 'a'.toNat ≤ c.toNat ∧ c.toNat ≤ 'f'.toNat then c.toNat - 'a'.toNat + 10
    else if 'A'.toNat ≤ c.toNat ∧ c.toNat ≤ 'F'.toNat then c.toNat - 'A'.toNat + 10
    else base
  if value < base then some value else none

/-- The digits of a number, most significant first, after the value of the digits read so far. -/
def digitsValue (base : Nat) : Nat → List Char → Option Nat
  | acc, [] => some acc
  | acc, c :: rest =>
    match digitValue base c with
    | some d => digitsValue base (acc * base + d) rest
    | none => none

/-- A numeral (30_encoding R95); at least one digit. -/
def numeral : List Char → Option Nat
  | '0' :: 'x' :: d :: ds => digitsValue 16 0 (d :: ds)
  | '0' :: 'b' :: d :: ds => digitsValue 2 0 (d :: ds)
  | d :: ds => digitsValue 10 0 (d :: ds)
  | [] => none

/-- The text without the spaces around it. -/
def trimmed (text : List Char) : List Char :=
  (((text.dropWhile (· == ' ')).reverse).dropWhile (· == ' ')).reverse

/-- The pieces of a text between its commas. -/
def commaPieces : List Char → List (List Char)
  | [] => [[]]
  | ',' :: rest => [] :: commaPieces rest
  | c :: rest =>
    match commaPieces rest with
    | piece :: pieces => (c :: piece) :: pieces
    | [] => [[c]]

/-- Every numeral of a list, or nothing where one of them is none. -/
def numerals : List (List Char) → Option (List Nat)
  | [] => some []
  | piece :: pieces =>
    match numeral (trimmed piece), numerals pieces with
    | some n, some ns => some (n :: ns)
    | _, _ => none

/-- The spelling of a mnemonic as characters. -/
def Mnemonic.chars (m : Mnemonic) : List Char := m.text.toList

/-- The mnemonics, in the order of the opcode map (30_encoding R87). -/
def allMnemonics : List Mnemonic := opcodeTable.map (·.name)

/-- A written command, read: its mnemonic up to the first space, its operands after it. -/
def readLine (text : List Char) : Option AsmLine :=
  let line := trimmed text
  let operands := trimmed (line.dropWhile (· != ' '))
  match allMnemonics.find? fun m => Mnemonic.chars m == line.takeWhile (· != ' ') with
  | some m =>
    if operands = [] then some { op := m, operands := [] }
    else
      match numerals (commaPieces operands) with
      | some ns => some { op := m, operands := ns }
      | none => none
  | none => none

/-- `enc(...)`: the word a written command assembles to; nothing where the assembler refuses it (30_encoding R95, R96). -/
def enc (text : List Char) : Option Word :=
  match readLine text with
  | some line =>
    match line.assemble with
    | some i => some (encode i)
    | none => none
  | none => none

end Sys2Proof.Machine
end

