-- ==== Sys2Proof/Tests/Slice0.lean ====
section
/-! SUPPORT. Tests. Expected values are the spec's: words of 30_encoding R100 and 95_test_vectors 3.1, T-vectors of
95_test_vectors (parameter set EXP). The last part shows, for every statement with hypotheses, a state that meets them. -/
namespace Sys2Proof.Tests
open Sys2Proof.Machine

/-! ## Decoding: words written out from the spec's formats -/

theorem test_decode_emit0 : decode 0x10000000 = .command .emit0 := by decide
theorem test_decode_emit1 : decode 0x20000000 = .command .emit1 := by decide
theorem test_decode_wcolor : decode 0x30123456 = .command (.wcolor 0x12 0x34 0x56) := by decide
theorem test_decode_dlys : decode 0x40000000 = .command .dlys := by decide
theorem test_decode_dlyl : decode 0x50000000 = .command .dlyl := by decide
theorem test_decode_dlyn : decode 0x6000FFFF = .command (.dlyn 65535) := by decide
theorem test_decode_i2cStart : decode 0x80000000 = .command .i2cStart := by decide
theorem test_decode_i2cRestart : decode 0x90000000 = .command .i2cRestart := by decide
theorem test_decode_i2cStop : decode 0xA0000000 = .command .i2cStop := by decide
theorem test_decode_i2cTx : decode 0xB0000050 = .command (.i2cTx 0x50) := by decide
theorem test_decode_i2cRxn : decode 0xC0000000 = .command .i2cRxn := by decide
theorem test_decode_i2cWreg : decode 0xD02872FF = .command (.i2cWreg 0x28 0x72 0xFF) := by decide
theorem test_decode_i2cRreg : decode 0xE0287200 = .command (.i2cRreg 0x28 0x72) := by decide

/-- Why a word is ILLEGAL, if it is. -/
def illegality (w : Word) : Option IllegalWord :=
  match decode w with
  | .illegal why => some why
  | .command _ => none

/-! The ILLEGAL words of 95_test_vectors 3.1. -/
theorem test_decode_reserved_opcodes :
    [(0x00000000 : Word), 0x70000000, 0xF0000000].map illegality =
      [some (.reservedOpcode 0x0), some (.reservedOpcode 0x7), some (.reservedOpcode 0xF)] := by decide
theorem test_decode_reserved_nibble :
    [(0x28000000 : Word), 0x31000000, 0xFFFFFFFF].map illegality = List.replicate 3 (some .reservedBits) := by decide
theorem test_decode_reserved_fields :
    [(0x10000001 : Word), 0x50000100, 0x60010000, 0xB0000100, 0xC0000001].map illegality =
      List.replicate 5 (some .reservedBits) := by decide
theorem test_decode_reserved_i2c :
    [(0xD0800000 : Word), 0xE0287201, 0xE0A87200].map illegality = List.replicate 3 (some .reservedBits) := by decide

theorem test_decodeTableWord : decodeTableWord 32 0xD02872FF = some (.i2cWreg 0x28 0x72 0xFF) := by decide
theorem test_decodeTableWord_illegal : decodeTableWord 32 0x70000000 = none := by decide

/-! ## The assembler's checks: an ill-formed line for each -/

theorem test_wellFormed_wcolor : ({ op := .wcolor, operands := [255, 0, 255] } : AsmLine).wellFormed = true := by decide
theorem test_illFormed_count : ({ op := .wcolor, operands := [1, 2] } : AsmLine).wellFormed = false := by decide
theorem test_illFormed_extra : ({ op := .dlys, operands := [1] } : AsmLine).wellFormed = false := by decide
theorem test_illFormed_red : ({ op := .wcolor, operands := [256, 0, 0] } : AsmLine).wellFormed = false := by decide
theorem test_illFormed_green : ({ op := .wcolor, operands := [0, 256, 0] } : AsmLine).wellFormed = false := by decide
theorem test_illFormed_blue : ({ op := .wcolor, operands := [0, 0, 256] } : AsmLine).wellFormed = false := by decide
theorem test_illFormed_delay : ({ op := .dlyn, operands := [65536] } : AsmLine).wellFormed = false := by decide
theorem test_illFormed_byte : ({ op := .i2cTx, operands := [256] } : AsmLine).wellFormed = false := by decide
theorem test_illFormed_address : ({ op := .i2cWreg, operands := [128, 0, 0] } : AsmLine).wellFormed = false := by decide
theorem test_illFormed_register : ({ op := .i2cRreg, operands := [0, 256] } : AsmLine).wellFormed = false := by decide
theorem test_illFormed_data : ({ op := .i2cWreg, operands := [0, 0, 256] } : AsmLine).wellFormed = false := by decide
theorem test_enc : enc "WCOLOR 0x12, 52, 0b01010110".toList = some 0x30123456 := by decide
theorem test_enc_refuses : enc "I2C_TX 256".toList = none := by decide

/-! ## One step: small states -/

/-- The state after an update that answers next. -/
def nextOf : Result → Option State
  | .next t => some t
  | .fault _ => none
  | .refused _ => none

/-- A host write of v at an offset in this cycle. -/
def writing (s : State) (off : BitVec 5) (v : Word) : State :=
  { s with hostQ := [{ rst := false, act := .access (.write off .word v) }] }

/-- A host read at an offset in this cycle. -/
def reading (s : State) (off : BitVec 5) : State :=
  { s with hostQ := [{ rst := false, act := .access (.read off .word) }] }

/-- STATUS after one step. -/
def statusAfter (s : State) : Option Word := (nextOf (step s)).map State.statusWord

/-- Idle and enabled, in I2C state st. -/
def at_ (st : I2cState) : State := { State.reset with i2cEn := true, i2cState := st }

/-- The phases pl in progress at index k, in I2C state st, with these draws in this cycle. -/
def inPhase (st : I2cState) (pl : List Phase) (k : Nat) (xact : Bool) (e : EnvInput) : State :=
  { at_ st with mode := .i2c, pl := pl, pidx := k, xact := xact, envQ := [e] }

/-- Draws that complete a phase. -/
def completes (ack : Bool) (rx : Byte) : EnvInput := { done := true, ack := ack, rx := rx, take := true }

/-- In the final cycle of an EMIT1. -/
def finalEmit : State := { State.reset with mode := .led, sr := 0x800000, ph := 19, bl := 1, done := true }

/-- A delay with r cycles left. -/
def delaying (r : Nat) : State := { State.reset with mode := .dly, rem := r, done := r == 1 }

/-- EXP of 95_test_vectors, with the shortest LATCH_CYCLES that 00_scope R8 allows, to keep the tests small. -/
def exp : Params where
  fClk := 16000000
  t0h := 6
  t1h := 13
  shortCycles := 1600
  longCycles := 16000
  latchCycles := 23
  gapTol := 2
  base := 0

theorem test_exp_wf : exp.Wf := by decide

/-! T40 and T41, cycle 1; T42: accepted in a final cycle; T50: in REG_SENT. -/
theorem test_emit0_cycle1 :
    (nextOf (exec .emit0 State.reset)).map (fun t => (t.mode, t.sr, t.ph, t.bl, t.busy)) = some (.led, 0, 0, 1, true) := by
  decide
theorem test_emit1_inFinalCycle :
    (nextOf (exec .emit1 finalEmit)).map (fun t => (t.sr, t.ph, t.bl, t.done)) = some (0x800000, 0, 1, false) := by decide
theorem test_emit1_inRegSent :
    (nextOf (exec .emit1 (at_ .regSent))).map (fun t => (t.mode, t.i2cState)) = some (.led, .regSent) := by decide

/-! T64: WCOLOR 255, 0, 0 in cycle 1, and from cycle 20 to cycle 21. -/
theorem test_wcolor_cycle1 :
    (nextOf (exec (.wcolor 255 0 0) State.reset)).map (fun t => (t.ph, t.bl, t.sr)) = some (0, 24, 0xFF0000) := by decide
theorem test_wcolor_cycle21 :
    (nextOf (step { State.reset with mode := .led, sr := 0xFF0000, ph := 19, bl := 24 })).map
      (fun t => (t.ph, t.bl, t.sr)) = some (0, 23, 0xFE0000) := by decide

/-! T40, T41: DOUT of cycles 6, 7, 13 and 14 under EXP. -/
theorem test_dout_emit0 :
    [5, 6].map (fun k => State.doutWith exp { State.reset with mode := .led, ph := k, bl := 1 }) = [true, false] := by decide
theorem test_dout_emit1 :
    [12, 13].map (fun k => State.doutWith exp { finalEmit with ph := k }) = [true, false] := by decide

/-! T22 to T24 and T26: DLYN 0 ends in cycle 1; the durations; T30 and T31: STATUS writes at and after the setting edge. -/
theorem test_dlyn_zero : statusAfter (State.reset.withFetchWord 32 0x60000000) = some 0x00000002 := by decide
theorem test_dlyn_ten : delayCycles exp 10 = 16000 := by decide
theorem test_dlys_rem : (nextOf (exec .dlys State.reset)).map (·.rem) = some Config.params.shortCycles := by rfl
theorem test_dlyl_rem : (nextOf (exec .dlyl State.reset)).map (·.rem) = some Config.params.longCycles := by rfl
theorem test_clear_loses : statusAfter (writing (delaying 2) 0x04 0x2) = some 0x00000002 := by decide
theorem test_clear_wins : statusAfter (writing (delaying 1) 0x04 0x2) = some 0x00000000 := by decide

/-! T10 to T13: writes while a delay is active; T29: the overrun one cycle before the end. -/
theorem test_overrun_bitrate :
    (nextOf (step (writing (delaying 9) 0x10 0x48))).map (fun t => (t.bitrate, t.err, t.errCode)) = some (0, true, .ovr) := by
  decide
theorem test_overrun_dlys : statusAfter (writing (delaying 2) 0x08 0x40000000) = some 0x00000016 := by decide
theorem test_no_overrun_reserved : statusAfter (writing (delaying 9) 0x14 0) = some 0x00000001 := by decide

/-! T5, T6, T4: register writes. -/
theorem test_bitrate :
    (nextOf (step (writing State.reset 0x10 0xFFFF1234))).map (·.regValue 4) = some 0x00001234 := by decide
theorem test_ctrl : (nextOf (step (writing State.reset 0x00 0xFFFFFFFD))).map (·.regValue 0) = some 0x00000001 := by decide
theorem test_reserved_write :
    (nextOf (step (writing State.reset 0x18 0xFFFFFFFF))).map (·.regValue 6) = some 0x00000000 := by decide

/-! T80, T85, T86, T88, T81 and T82: phases completing. -/
theorem test_i2cStart_done :
    statusAfter (inPhase .idle [.start] 0 false (completes false 0)) = some 0x00000102 := by decide
theorem test_i2cTx_acked :
    statusAfter (inPhase .startSent [.tx 0x50] 0 false (completes false 0)) = some 0x00000202 := by decide
theorem test_i2cTx_nacked :
    statusAfter (inPhase .startSent [.tx 0x50] 0 false (completes true 0)) = some 0x0000020A := by decide
theorem test_i2cRxn_received :
    (nextOf (step (inPhase .addrSentRead [.rxb, .nak] 0 false (completes false 0x5A)))).map
      (fun t => (t.statusWord, t.rxdata, t.trace)) = some (0x00000801, 0x5A, [.r 0x5A]) := by decide
theorem test_i2cStop_setWins :
    statusAfter (writing (inPhase .dataSent [.stop] 0 false (completes false 0)) 0x04 0x2) = some 0x00000502 := by decide
theorem test_i2cRestart_done :
    statusAfter (inPhase .regSent [.restart] 0 false (completes false 0)) = some 0x00000602 := by decide

/-! T84, T91 to T96: rejections. -/
theorem test_stop_inAddrSent :
    statusAfter (State.withFetchWord { at_ .addrSent with nack := true } 32 0xA0000000) = some 0x0000024E := by decide
theorem test_start_disabled : statusAfter (State.reset.withFetchWord 32 0x80000000) = some 0x00000036 := by decide
theorem test_illegal_disabled : statusAfter (State.reset.withFetchWord 32 0x80000001) = some 0x00000026 := by decide
theorem test_read_afterStart :
    statusAfter (State.withFetchWord (at_ .startSent) 32 0xB0000051) = some 0x00000146 := by decide
theorem test_write_afterRestart :
    statusAfter (State.withFetchWord (at_ .restartSent) 32 0xB0000050) = some 0x00000646 := by decide
theorem test_restart_legal :
    (nextOf (exec .i2cRestart (at_ .regSent))).map (fun t => (t.mode, t.pl)) = some (.i2c, [.restart]) := by decide
theorem test_rxn_legal :
    (nextOf (exec .i2cRxn (at_ .addrSentRead))).map (fun t => (t.mode, t.pl)) = some (.i2c, [.rxb, .nak]) := by decide

/-! T100: the first and the last cycle of a WREG; T103: WREG in STOP_SENT; T102: the phases of a RREG. -/
theorem test_wreg_last :
    statusAfter (inPhase .dataSent (wregPhases 0x28 0x72 0xFF) 4 true (completes false 0)) = some 0x00000002 := by decide
theorem test_wreg_inStopSent :
    (nextOf (exec (.i2cWreg 0x28 0x10 0x01) { at_ .stopSent with done := true })).map
      (fun t => (t.statusWord, t.pl)) = some (0x00000001, [.start, .tx 0x50, .tx 0x10, .tx 0x01, .stop]) := by decide
theorem test_rreg_phases :
    (nextOf (exec (.i2cRreg 0x28 0x72) (at_ .idle))).map (fun t => (t.xact, t.pl)) =
      some (true, [.start, .tx 0x50, .tx 0x72, .restart, .tx 0x51, .rxb, .nak, .stop]) := by decide

/-! T89, T90: clearing I2C_EN; T110, T114, T115: resets; T9: a narrow access. -/
theorem test_abandon :
    (nextOf (step (writing (at_ .regSent) 0x00 0))).map (fun t => (t.i2cEn, t.i2cState, t.trace)) =
      some (false, .idle, [.x]) := by decide
theorem test_no_abandon :
    (nextOf (step (writing (at_ .stopSent) 0x00 0))).map (fun t => (t.i2cState, t.trace)) = some (.idle, []) := by decide
theorem test_softReset :
    (nextOf (step (writing { State.reset with err := true, i2cEn := true, bitrate := 0x48 } 0x00 0x3))).map
      (fun t => [t.regValue 0, t.regValue 1, t.regValue 4]) = some [0, 0, 0] := by decide
theorem test_reset_losesTheWrite :
    (nextOf (step { State.reset with
      hostQ := [{ rst := true, act := .access (.write 0x08 .word 0x10000000) }] })).map (·.mode) = some .idle := by decide
theorem test_narrow :
    (match step { State.reset with hostQ := [{ rst := false, act := .access (.read 0x04 .half) }] } with
      | .refused .narrowAccess => true
      | _ => false) = true := by decide

/-! T120 to T128 of the LED chain: a pulse (h, l) closed by the next rising level; T126 with LATCH_CYCLES = 23. -/

/-- A latched chain with two cells. -/
def smallChain : LedChain where
  high := 0
  low := 1
  cut := false
  pending := []
  bad := false
  afterReset := false
  disp := [.shown 1, .shown 2]

/-- PENDING and BAD after a pulse (h, l) and a rising level. -/
def afterPulse (h l : Nat) : List Bool × Bool :=
  let c := smallChain.sampleAll exp (pulseLevels h l ++ [true]) 0
  (c.pending, c.bad)

theorem test_chain_pulses :
    [(6, 14), (13, 7), (6, 16), (13, 9)].map (fun p => afterPulse p.1 p.2) =
      [([false], false), ([true], false), ([false], false), ([true], false)] := by decide
theorem test_chain_havoc :
    [(6, 17), (13, 10), (4, 14), (7, 14), (20, 1)].map (fun p => (afterPulse p.1 p.2).2) =
      [true, true, true, true, true] := by decide
/-- T132: after havoc every cell is a draw at the latch, and BAD is 0 again. -/
theorem test_chain_latch_bad :
    (fun c : LedChain => (c.disp, c.bad)) (LedChain.latch { smallChain with bad := true } 7) =
      ([.drawn 7 0, .drawn 7 1], false) := by decide
/-- 70_reset_and_hazards R191: a "1" cut to the length of a "0" is havoc; reset while its 20 cycles run, at PH = 5. -/
theorem test_chain_cut :
    ({ smallChain with high := 6, low := 14, cut := true }.sample exp true 0).bad = true := by decide
theorem test_chain_cut_latch :
    ({ smallChain with high := 6, low := 22, cut := true }.sample exp false 7).disp = [.drawn 7 0, .drawn 7 1] := by decide
/-- T68 in small: a reset in the low time of the fifth bit of a pixel, and a long idle: the bit is read, its cell is a draw. -/
theorem test_chain_reset_partial :
    let c := ({ smallChain with high := 13, low := 7, pending := [true, true, true, true] } : LedChain).markReset
    (c.pending.length, (c.sampleAll exp (List.replicate 16 false) 0).disp) = (4, [.drawn 15 0, .shown 2]) := by decide
/-- 60_exceptions R176: a reset with no pulse open, and a long idle: a latch with nothing pending. -/
theorem test_chain_reset_idle :
    (smallChain.markReset.sampleAll exp (List.replicate 23 false) 0).disp = [.shown 1, .shown 2] := by decide
/-- T130 in small: 25 bits pending. -/
theorem test_chain_latch_partial :
    (LedChain.latch { smallChain with pending := pixelBitList 0x123456 ++ [true] } 7).disp =
      [.shown 0x123456, .drawn 7 1] := by decide

/-! The touch controller: the transactions it recognises. -/
theorem test_device_write :
    transactionOf [.s, .w 0x50 true, .w 0x72 false, .w 0xFF false] false = some (.write 0x72 0xFF false) := by decide
theorem test_device_other_address :
    transactionOf [.s, .w 0x52 false, .w 0x72 false, .w 0xFF false] true = none := by decide

/-! 60_exceptions R182: bytes to the device must be acknowledged, bytes after a start to another address need not. -/
theorem test_acks_other : envAcks [.s, .w 0x50 false, .w 0x72 false, .sr, .w 0x61 true, .r 0, .n, .p] := by
  simp [envAcks, acksFrom, devAddr]
theorem test_acks_device : ¬ envAcks [.s, .w 0x60 true, .w 0x72 true, .sr, .w 0x51 true] := by
  simp [envAcks, acksFrom, devAddr]

/-! 60_exceptions R181: after a read with a NACKed address the next one is no longer the first. -/
theorem test_fresh_nacked : ¬ envReadFresh 0x72 0 (.unread 0) [.read 0x72 0xAA false, .read 0x72 0xAA true] := by
  simp [envReadFresh, Freshness.allows, Freshness.afterRead]

/-! 00_scope R23: trailing cycles with no access do not keep a run from ending. -/
theorem test_runEnded :
    ({ State.reset with hostQ := [{ rst := false, act := .idle }, { rst := false, act := .program }] } : State).runEnded := by
  refine ⟨⟨rfl, ?_⟩, rfl⟩
  decide

/-! The host's program notation: WAITDONE repeats its read, then goes on (P1, cycles 4 and 9). -/
theorem test_waitDone_repeats : programNext [.waitDone, .waitIdle] 0x00000001 = [.waitDone, .waitIdle] := by decide
theorem test_waitDone_returns : programNext [.waitDone, .waitIdle] 0x00000002 = [.waitIdle] := by decide

/-! ## Witnesses: for each statement with hypotheses, states that meet all of them together -/

/-- RST = 1 in this cycle. -/
def withRst (s : State) : State := { s with hostQ := [{ rst := true, act := .idle }] }

/-- The ready states of these tests. -/
theorem ready_reset : State.reset.ready := ⟨rfl, rfl⟩
theorem ready_finalEmit : finalEmit.ready := ⟨rfl, rfl⟩
theorem ready_delaying : (delaying 1).ready := ⟨rfl, rfl⟩
theorem ready_at (st : I2cState) : (at_ st).ready := ⟨rfl, rfl⟩

theorem witness_EncodeOfDecode : decode 0x6000000A = .command (.dlyn 10) := by decide
theorem witness_DecodeFollowsOpcodeTable :
    (⟨.wcolor, 0x30000000, 0xFF000000⟩ : OpcodeRow) ∈ opcodeTable ∧
      (0x30123456 : Word) &&& 0xFF000000 = 0x30000000 := by decide
theorem witness_ReservedOpcodesRejected :
    [(0x00000000 : Word), 0x70000000, 0xFFFFFFFF].map (fun w => w.extractLsb' 28 4) = [(0x0 : BitVec 4), 0x7, 0xF] ∧
      State.reset.ready := ⟨by decide, ready_reset⟩
theorem witness_AssemblerNeverTruncates :
    ({ op := .i2cWreg, operands := [127, 255, 255] } : AsmLine).assemble = some (.i2cWreg 127 255 255) := by decide
/-- Hardware reset while idle and during a command, and soft reset. -/
theorem witness_ResetLoadsResetState :
    (withRst (delaying 9)).pins.rst = true ∧
      ((writing (delaying 9) 0x00 0x2).port = .write 0 0x2 ∧ (0x2 : Word).getLsbD 1 = true) := by decide
theorem witness_ResetAbandonsTheBus :
    (withRst (inPhase .idle [.start] 0 false (completes false 0))).mode = .i2c ∧
      ((withRst (at_ .regSent)).i2cState ≠ .idle ∧ (withRst (at_ .regSent)).i2cState ≠ .stopSent) ∧
      ((withRst (at_ .stopSent)).mode ≠ .i2c ∧ (withRst (at_ .stopSent)).i2cState = .stopSent) ∧
      (withRst (at_ .stopSent)).pins.rst = true := by decide
theorem witness_ReadReturnsRegisterValue :
    (reading State.reset 0x1C).port = .read 7 ∧ (reading State.reset 0x1C).pins.rst = false ∧
      (reading State.reset 0x1C).seqOk = true := by decide
theorem witness_ReadsHaveNoSideEffect :
    (reading (delaying 9) 0x04).pins.rst = false ∧ (reading (delaying 9) 0x04).port = .read 1 ∧
      (reading (delaying 9) 0x04).seqOk = true := by decide
/-- A halfword read, and a misaligned word write. -/
theorem witness_NarrowAccessRefused :
    ({ State.reset with hostQ := [{ rst := false, act := .access (.read 0x04 .half) }] } : State).access =
        .read 0x04 .half ∧
      (writing State.reset 0x02 0).access = .write 0x02 .word 0 ∧ (0x02 : BitVec 5).toNat % 4 ≠ 0 ∧
      (writing State.reset 0x02 0).pins.rst = false := by decide
theorem witness_ReservedBitsAndOffsets :
    5 ≤ (5 : BitVec 3).toNat ∧ 5 ≤ (7 : BitVec 3).toNat ∧ State.reset.seqOk = true ∧
      (0x1 : Word).getLsbD 0 = (0xFFFFFFFD : Word).getLsbD 0 ∧ (0x2 : Word).getLsbD 1 = (0xFFFFFFFF : Word).getLsbD 1 ∧
      (0x1234 : Word).setWidth 16 = (0xFFFF1234 : Word).setWidth 16 := by decide
/-- Busy; enabling; disabling in STOP_SENT; disabling in a transaction. -/
theorem witness_CtrlWriteConfigures :
    ((writing (delaying 9) 0x00 0).busy = true ∧ (writing (delaying 9) 0x00 0).port = .write 0 0 ∧
        (writing (delaying 9) 0x00 0).pins.rst = false ∧ (0 : Word).getLsbD 1 = false) ∧
      ((writing State.reset 0x00 0x1).busy = false ∧ (0x1 : Word).getLsbD 0 = true ∧ (0x1 : Word).getLsbD 1 = false) ∧
      ((writing (at_ .stopSent) 0x00 0).i2cState = .stopSent ∧ (writing (at_ .stopSent) 0x00 0).busy = false) ∧
      ((writing (at_ .regSent) 0x00 0).i2cState = .regSent ∧ (writing (at_ .regSent) 0x00 0).busy = false) ∧
      (writing (delaying 9) 0x00 0).seqOk = true := by decide
/-- Bit 1 clear; DONE set at the same edge; DONE cleared, in STOP_SENT and elsewhere. -/
theorem witness_StatusWriteClearsDone :
    ((writing (delaying 2) 0x04 0x1).port = .write 1 0x1 ∧ (writing (delaying 2) 0x04 0x1).pins.rst = false ∧
        (writing (delaying 2) 0x04 0x1).seqOk = true) ∧
      ((writing (delaying 2) 0x04 0x2).advance.done = true ∧ (writing (delaying 2) 0x04 0x2).done = false) ∧
      ((writing { at_ .stopSent with done := true } 0x04 0x2).advance.i2cState = .stopSent ∧
        (writing { at_ .stopSent with done := true } 0x04 0x2).done = true) ∧
      (writing (delaying 1) 0x04 0x2).advance.i2cState ≠ .stopSent := by decide
theorem witness_BitrateWrite :
    ((writing (delaying 9) 0x10 0x48).busy = true ∧ (writing (delaying 9) 0x10 0x48).port = .write 4 0x48) ∧
      ((writing State.reset 0x10 0x48).busy = false ∧ (writing State.reset 0x10 0x48).port = .write 4 0x48 ∧
        (writing State.reset 0x10 0x48).seqOk = true ∧ (writing State.reset 0x10 0x48).pins.rst = false) := by decide

/-- A step that answers next, from a state without a reset. -/
def stepsTo (s : State) (p : State → Bool) : Bool :=
  !s.resetting && (match nextOf (step s) with
    | some t => p t
    | none => false)

theorem stepsTo_next {s : State} {p : State → Bool} (h : stepsTo s p = true) :
    s.resetting = false ∧ ∃ t, step s = .next t ∧ p t = true := by
  unfold stepsTo at h
  rw [Bool.and_eq_true] at h
  refine ⟨by simpa using h.1, ?_⟩
  have h2 := h.2
  cases hs : step s with
  | next t => rw [hs] at h2; exact ⟨t, rfl, h2⟩
  | fault f => rw [hs] at h2; exact nomatch h2
  | refused r => rw [hs] at h2; exact nomatch h2

theorem witness_FirstErrorIsKept :
    ∃ s t : State, step s = .next t ∧ s.resetting = false ∧ s.err = true := by
  have h := stepsTo_next (s := writing { delaying 9 with err := true, errCode := .seq } 0x08 0) (p := fun _ => true)
    (by decide)
  obtain ⟨hr, t, ht, _⟩ := h
  exact ⟨_, t, ht, hr, rfl⟩

/-- An error at each listed place: the overruns of CMD, BITRATE and CTRL, then ILL, DIS and SEQ. -/
theorem witness_ErrorsOnlyWhereListed :
    ∀ s ∈ [writing (delaying 9) 0x08 0, writing (delaying 9) 0x10 0, writing (delaying 9) 0x00 0,
        writing State.reset 0x08 0, writing State.reset 0x08 0x80000000, writing (at_ .idle) 0x08 0xA0000000],
      s.err = false ∧ ∃ t, step s = .next t ∧ t.err = true := by
  intro s hs
  have h : stepsTo s (fun t => t.err) = true ∧ s.err = false := by
    revert s
    decide
  obtain ⟨_, t, ht, he⟩ := stepsTo_next h.1
  exact ⟨h.2, t, ht, he⟩

theorem witness_OverrunChangesOnlyTheErrorRecord :
    (delaying 2).seqOk = true ∧ (delaying 2).busy = true ∧
      ({ delaying 2 with hostQ := [{ rst := false, act := .idle }] } : State).port = .none ∧
      (writing (delaying 2) 0x08 0).port = .write 2 0 ∧ (writing (delaying 2) 0x10 0).port = .write 4 0 ∧
      (writing (delaying 2) 0x00 0x1).port = .write 0 0x1 ∧ (0x1 : Word).getLsbD 1 = false ∧
      (writing (delaying 2) 0x00 0x1).pins.rst = false := by decide
theorem witness_ErrorPriority :
    ((delaying 2).seqOk = true ∧ (delaying 2).busy = true) ∧ (State.reset.busy = false ∧ State.reset.seqOk = true) ∧
      decode 0x80000001 = .illegal .reservedBits ∧
      (decode 0xA0000000 = .command .i2cStop ∧ Instr.i2cStop.family = .i2c ∧ State.reset.i2cEn = false) := by decide
/-- For each clause a state it is about; TX with the wrong direction bit in both states that check it. -/
theorem witness_OutOfSequenceRejected :
    (∀ st : I2cState, (at_ st).ready ∧ (at_ st).i2cEn = true) ∧ (at_ .startSent).freed.i2cState ≠ .idle ∧
      (at_ .idle).freed.i2cState ≠ .regSent ∧ (at_ .regSent).freed.i2cState ≠ .dataSent ∧
      (at_ .regSent).freed.i2cState ≠ .ackSent ∧
      ¬ ((at_ .startSent).freed.i2cState = .startSent ∧ (0x51 : Byte).getLsbD 0 = false) ∧
      ¬ ((at_ .restartSent).freed.i2cState = .restartSent ∧ (0x50 : Byte).getLsbD 0 = true) ∧
      (at_ .ackSent).freed.i2cState ≠ .addrSentRead :=
  ⟨fun st => ⟨ready_at st, rfl⟩, by decide⟩
/-- Ready when idle, and in the final cycle of an LED command and of a delay; any I2C state, enabled or not. -/
theorem witness_EmitCommandsStart : State.reset.ready ∧ finalEmit.ready ∧ (delaying 1).ready ∧ (at_ .regSent).ready :=
  ⟨ready_reset, ready_finalEmit, ready_delaying, ready_at _⟩
theorem witness_WcolorLoadsThePixel : State.reset.ready ∧ finalEmit.ready := ⟨ready_reset, ready_finalEmit⟩
theorem witness_DelayCommandsStart : State.reset.ready ∧ (delaying 1).ready ∧ (1 : BitVec 16) ≠ 0 ∧ (65535 : BitVec 16) ≠ 0 :=
  ⟨ready_reset, ready_delaying, by decide, by decide⟩
theorem witness_I2cPrimitivesStart :
    (∀ st : I2cState, (at_ st).ready ∧ (at_ st).i2cEn = true) ∧
      ((at_ .idle).freed.i2cState = .idle ∧ (at_ .stopSent).freed.i2cState = .idle) ∧
      (at_ .regSent).freed.i2cState = .regSent ∧ (at_ .dataSent).freed.i2cState = .dataSent ∧
      (at_ .ackSent).freed.i2cState = .ackSent ∧
      ((at_ .startSent).freed.i2cState = .startSent ∧ (0x50 : Byte).getLsbD 0 = false) ∧
      (at_ .addrSent).freed.i2cState = .addrSent ∧
      ((at_ .restartSent).freed.i2cState = .restartSent ∧ (0x51 : Byte).getLsbD 0 = true) ∧
      (at_ .addrSentRead).freed.i2cState = .addrSentRead :=
  ⟨fun st => ⟨ready_at st, rfl⟩, by decide⟩
theorem witness_I2cTransactionsStart :
    (at_ .idle).ready ∧ (at_ .stopSent).ready ∧ (at_ .idle).i2cEn = true ∧ (at_ .stopSent).i2cState = .stopSent :=
  ⟨ready_at _, ready_at _, rfl, rfl⟩

/-- An acceptance written by the host program, which then goes on. -/
theorem witness_StepRunsTheDecodedCommand :
    let s : State := { State.reset with prog := [.w .cmd 0x10000000, .waitDone] }
    s.pins.rst = false ∧ s.port = .write 2 0x10000000 ∧ decode 0x10000000 = .command .emit0 ∧
      ∃ t, exec .emit0 s = .next t :=
  ⟨by decide, by decide, by decide, _, rfl⟩

/-- An I2C command waiting for its first phase meets the invariant, and steps. -/
def waiting : State :=
  { at_ .idle with
    mode := .i2c
    pl := [.start]
    hostQ := [{ rst := false, act := .idle }]
    envQ := [{ done := false, ack := false, rx := 0, take := false }] }

theorem waiting_inv : waiting.Inv where
  seq := rfl
  phase := by decide
  bits := by decide
  index := by decide
  done_of_busy := fun _ => rfl
  error_record := by decide
  disabled := by decide
  transaction := by decide
  stop_sent := by decide
  data_received := by decide
  on_graph := fun _ => ⟨.startSent, rfl, by decide, by decide⟩
  pulse_open := fun h => absurd h (by decide)
  pending_open := fun _ => rfl
  regs := rfl
  cells := rfl

theorem waiting_steps : ∃ t, step waiting = .next t :=
  have ⟨t, ht, _⟩ := (stepsTo_next (s := waiting) (p := fun _ => true) (by decide)).2
  ⟨t, ht⟩

theorem witness_InvariantKeptByEveryStep : waiting.Inv ∧ ∃ t, step waiting = .next t := ⟨waiting_inv, waiting_steps⟩
theorem witness_OnlyNarrowAccessesStop : waiting.Inv := waiting_inv

/-! Runs of an LED command or a delay with no host access. -/

/-- No command but an LED command or a delay is active, and the host does nothing. -/
def freeRunning (s : State) : Bool :=
  s.seqOk && s.mode != .i2c && s.hostQ.isEmpty && s.prog.isEmpty

theorem freeRunning_step {s : State} (h : freeRunning s = true) :
    s.resetting = false ∧ ∃ t, step s = .next t ∧ freeRunning t = true := by
  simp only [freeRunning, Bool.and_eq_true, bne_iff_ne, List.isEmpty_iff] at h
  obtain ⟨⟨⟨hs, hm⟩, hq⟩, hp⟩ := h
  have hpins : s.pins = { rst := false, act := .program } := by simp [State.pins, hq]
  have hport : s.port = .none := by simp [State.port, State.access, hpins, hp, programAccess, HostAccess.port]
  have hr : s.resetting = false := by simp [State.resetting, hpins, hport]
  refine ⟨hr, _, step_of_seqOk hr (by simp [hport]) hs, ?_⟩
  simp only [freeRunning, State.seqOk, endCycle_mode, endCycle_ph, endCycle_bl, endCycle_rem, endCycle_pidx, endCycle_pl,
    endCycle_hostQ, endCycle_prog, hq, hp, hport, accessEffect, hpins, programNext]
  by_cases hb : s.busy = true
  · cases hmode : s.mode with
    | idle => simp [State.busy, hmode] at hb
    | i2c => exact absurd hmode hm
    | dly =>
      have h2 : 2 ≤ s.rem := by simpa [State.busy, hmode] using hb
      simp only [advance_dly hmode h2, hmode]
      simp
      omega
    | led =>
      have hf : s.final = false := by simpa [State.busy, hmode] using hb
      have hfin := hf
      simp only [State.seqOk, hmode, Bool.and_eq_true, decide_eq_true_eq] at hs
      simp only [State.final, hmode, Bool.and_eq_false_iff, beq_eq_false_iff_ne] at hf
      by_cases hph : s.ph < bitPeriod - 1
      · simp only [advance_led hmode hfin, hph, if_true, hmode]
        simp only [Bool.and_eq_true, decide_eq_true_eq]
        simp only [bitPeriod, pixelBits] at hs hf hph ⊢
        simp
        omega
      · simp only [advance_led hmode hfin, hph, if_false, hmode]
        simp only [Bool.and_eq_true, decide_eq_true_eq]
        simp only [bitPeriod, pixelBits] at hs hf hph ⊢
        simp
        omega
  · rw [advance_of_not_busy hs (by simpa using hb)]
    simp

/-- Such a state runs for any number of steps. -/
theorem freeRunning_runs : ∀ (n : Nat) {s : State}, freeRunning s = true → ∃ t, RunsNoReset n s t
  | 0, s, _ => ⟨s, rfl⟩
  | n + 1, _, h => by
    obtain ⟨hr, u, hu, hf⟩ := freeRunning_step h
    obtain ⟨t, ht⟩ := freeRunning_runs n hf
    exact ⟨t, rfl, hr, u, hu, ht⟩

/-- From a reset state in which the host writes a command, its acceptance and then n active cycles. -/
theorem accepted_runs (i : Instr) (n : Nat) (h : stepsTo (writing State.reset 0x08 (encode i)) freeRunning = true) :
    ∃ s t u : State, s.ready ∧ s.presents i ∧ step s = .next t ∧ RunsNoReset n t u := by
  obtain ⟨_, t, ht, hf⟩ := stepsTo_next h
  obtain ⟨u, hu⟩ := freeRunning_runs n hf
  exact ⟨writing State.reset 0x08 (encode i), t, u, ⟨rfl, rfl⟩, ⟨rfl, rfl⟩, ht, hu⟩

/-- The first and the last of the 20 cycles, of both commands. -/
theorem witness_EmitWaveform :
    ∀ b : Bool, ∀ n ∈ [0, 19], n < 20 ∧ ∃ s t u : State,
      s.ready ∧ s.presents (if b then .emit1 else .emit0) ∧ step s = .next t ∧ RunsNoReset n t u := by
  intro b n hn
  refine ⟨by revert n; decide, ?_⟩
  cases b with
  | false => exact accepted_runs .emit0 n (by decide)
  | true => exact accepted_runs .emit1 n (by decide)
/-- The first and the last of the 480 cycles. -/
theorem witness_WcolorWaveform :
    ∀ n ∈ [0, 479], n < 480 ∧ ∃ s t u : State,
      s.ready ∧ s.presents (.wcolor 0x12 0x34 0x56) ∧ step s = .next t ∧ RunsNoReset n t u := by
  intro n hn
  exact ⟨by revert n; decide, accepted_runs (.wcolor 0x12 0x34 0x56) n (by decide)⟩
/-- DLYN 0 in its one cycle. -/
theorem witness_DelayTimeline :
    ∃ s t u : State, s.ready ∧ s.presents (.dlyn 0) ∧ step s = .next t ∧ RunsNoReset 0 t u :=
  accepted_runs (.dlyn 0) 0 (by decide)
/-- DLYS and DLYL in their first and last cycles, whatever the parameters are. -/
theorem witness_DelayTimeline_parameters :
    (∃ s t u : State, s.ready ∧ s.presents .dlys ∧ step s = .next t ∧
        RunsNoReset (Config.params.shortCycles - 1) t u) ∧
      ∃ s t u : State, s.ready ∧ s.presents .dlyl ∧ step s = .next t ∧ RunsNoReset (Config.params.longCycles - 1) t u :=
  ⟨accepted_runs .dlys _ (by decide), accepted_runs .dlyl _ (by decide)⟩
theorem witness_IdleAfterTheFinalCycle :
    finalEmit.final = true ∧ finalEmit.seqOk = true ∧ finalEmit.resetting = false ∧ finalEmit.port = .none ∧
      (writing (delaying 1) 0x04 0x2).final = true ∧ (writing (delaying 1) 0x04 0x2).port = .write 1 0x2 ∧
      ∃ t, step finalEmit = .next t :=
  have ⟨t, ht, _⟩ := (stepsTo_next (s := finalEmit) (p := fun _ => true) (by decide)).2
  ⟨by decide, by decide, by decide, by decide, by decide, by decide, t, ht⟩

/-! The I2C master. -/

theorem witness_PhaseCompletion :
    let s := inPhase .idle (rregPhases 0x28 0x72) 0 true (completes false 0)
    s.mode = .i2c ∧ s.env.done = true ∧ s.pl[s.pidx]? = some .start ∧ s.pidx + 1 < s.pl.length := by decide
/-- The only phase of a primitive command, and the last of a transaction. -/
theorem witness_LastPhaseEndsTheCommand :
    let s := inPhase .startSent [.tx 0x50] 0 false (completes true 0)
    let s' := inPhase .dataSent (wregPhases 0x28 0x72 0xFF) 4 true (completes false 0)
    (s.mode = .i2c ∧ s.env.done = true ∧ s.pl[s.pidx]? = some (.tx 0x50) ∧ s.pidx + 1 = s.pl.length ∧ s.xact = false) ∧
      s'.mode = .i2c ∧ s'.env.done = true ∧ s'.pl[s'.pidx]? = some .stop ∧ s'.pidx + 1 = s'.pl.length ∧
        s'.xact = true := by decide
/-- A step that answers next. -/
theorem steps_of {s : State} (h : (nextOf (step s)).isSome = true) : ∃ t, step s = .next t := by
  cases hs : step s with
  | next t => exact ⟨t, rfl⟩
  | fault f => rw [hs] at h; exact nomatch h
  | refused r => rw [hs] at h; exact nomatch h

/-- n steps without a reset while p holds, and then q. -/
def runsTo (p q : State → Bool) : Nat → State → Bool
  | 0, s => q s
  | n + 1, s => p s && stepsTo s (runsTo p q n)

theorem runsTo_run {p q : State → Bool} : ∀ (n : Nat) {s : State}, runsTo p q n s = true →
    ∃ u, RunsWhile p n s u ∧ q u = true
  | 0, s, h => ⟨s, rfl, h⟩
  | n + 1, s, h => by
    rw [runsTo, Bool.and_eq_true] at h
    obtain ⟨hr, t, ht, hq⟩ := stepsTo_next h.2
    obtain ⟨u, hu, hqu⟩ := runsTo_run n hq
    exact ⟨u, ⟨h.1, hr, t, ht, hu⟩, hqu⟩

/-- 70_reset_and_hazards R194: setup(0x48) with one-cycle phases, from reset, through its 30 cycles. -/
theorem test_setup :
    ∃ t, RunsNoReset 30
        { State.reset with prog := setupProgram 0x48, envQ := List.replicate 30 (completes false 0) } t ∧
      (t.prog.isEmpty && t.i2cEn && t.bitrate == 0x48 && t.i2cState == .idle && t.mode == .idle && t.done && !t.err) =
        true :=
  runsTo_run 30 (by decide)

/-- A reset during a hang, and one waiting cycle. -/
theorem witness_NoTimeout :
    ((withRst waiting).mode = .i2c ∧ (withRst waiting).resetting = true ∧ ∃ t, step (withRst waiting) = .next t) ∧
      waiting.Inv ∧ waiting.mode = .i2c ∧ ∃ u, RunsWhile (fun x => !x.env.done) 1 waiting u :=
  have ⟨u, hu, _⟩ := runsTo_run (p := fun x => !x.env.done) (q := fun _ => true) 1 (s := waiting) (by decide)
  ⟨⟨rfl, by decide, steps_of (by decide)⟩, waiting_inv, rfl, u, hu⟩
theorem witness_I2cStateFollowsTheGraph : waiting.Inv ∧ ∃ t, step waiting = .next t := ⟨waiting_inv, waiting_steps⟩

/-- MODE is I2C. -/
def i2cBusy (x : State) : Bool := x.mode == .i2c

theorem i2cBusy_false {u : State} (h : (!i2cBusy u) = true) : u.mode ≠ .i2c := by
  simpa [i2cBusy] using h

/-- The command still running, and ended. -/
theorem witness_CommandEmitsItsPhasesInOrder :
    let t := inPhase .addrSentRead [.rxb, .nak] 0 false (completes false 0x5A)
    let t' := inPhase .idle [.start] 0 false (completes false 0)
    (t.mode = .i2c ∧ t.pidx = 0 ∧ ∃ u, RunsWhile i2cBusy 1 t u ∧ u.mode = .i2c) ∧
      (t'.mode = .i2c ∧ t'.pidx = 0 ∧ ∃ u, RunsWhile i2cBusy 1 t' u ∧ u.mode ≠ .i2c) := by
  have ⟨u, hu, hq⟩ := runsTo_run (p := i2cBusy) (q := i2cBusy) 1
    (s := inPhase .addrSentRead [.rxb, .nak] 0 false (completes false 0x5A)) (by decide)
  have ⟨u', hu', hq'⟩ := runsTo_run (p := i2cBusy) (q := fun x => !i2cBusy x) 1
    (s := inPhase .idle [.start] 0 false (completes false 0)) (by decide)
  exact ⟨⟨rfl, rfl, u, hu, by simpa [i2cBusy] using hq⟩, ⟨rfl, rfl, u', hu', i2cBusy_false hq'⟩⟩

/-- The host writes a command while enabled; every cycle from then on completes a phase. -/
def transacting (i : Instr) : State :=
  { at_ .idle with
    hostQ := [{ rst := false, act := .access (.write 0x08 .word (encode i)) }]
    envQ := List.replicate 12 (completes false 0xFF) }

/-- A transaction accepted, and ended n cycles later. -/
theorem transacting_runs (i : Instr) (n : Nat)
    (h : stepsTo (transacting i) (runsTo i2cBusy (fun x => !i2cBusy x) n) = true) :
    ∃ s t u : State, s.ready ∧ s.i2cEn = true ∧ s.i2cState = .idle ∧ s.presents i ∧
      step s = .next t ∧ RunsWhile i2cBusy n t u ∧ u.mode ≠ .i2c := by
  obtain ⟨_, t, ht, hq⟩ := stepsTo_next h
  obtain ⟨u, hu, hm⟩ := runsTo_run n hq
  exact ⟨transacting i, t, u, ⟨rfl, rfl⟩, rfl, rfl, ⟨rfl, rfl⟩, ht, hu, i2cBusy_false hm⟩

theorem witness_WregBusFrame :
    ∃ s t u : State, s.ready ∧ s.i2cEn = true ∧ s.i2cState = .idle ∧ s.presents (.i2cWreg 0x28 0x72 0xFF) ∧
      step s = .next t ∧ RunsWhile i2cBusy 5 t u ∧ u.mode ≠ .i2c :=
  transacting_runs _ 5 (by decide)
theorem witness_RregBusFrame :
    ∃ s t u : State, s.ready ∧ s.i2cEn = true ∧ s.i2cState = .idle ∧ s.presents (.i2cRreg 0x28 0x72) ∧
      step s = .next t ∧ RunsWhile i2cBusy 8 t u ∧ u.mode ≠ .i2c :=
  transacting_runs _ 8 (by decide)
theorem witness_WregEndsInFiveCycles :
    let s := transacting (.i2cWreg 0x28 0x72 0xFF)
    s.ready ∧ s.i2cEn = true ∧ s.i2cState = .idle ∧ s.prog = [] ∧
      s.hostQ = [{ rst := false, act := .access (.write 0x08 .word (encode (.i2cWreg 0x28 0x72 0xFF))) }] ∧
      s.envQ = List.replicate 6 (completes false 0xFF) ++ List.replicate 6 (completes false 0xFF) :=
  ⟨⟨rfl, rfl⟩, rfl, rfl, rfl, rfl, rfl⟩
theorem witness_RregEndsInEightCycles :
    let s := transacting (.i2cRreg 0x28 0x72)
    s.ready ∧ s.i2cEn = true ∧ s.i2cState = .idle ∧ s.prog = [] ∧
      s.hostQ = [{ rst := false, act := .access (.write 0x08 .word (encode (.i2cRreg 0x28 0x72))) }] ∧
      s.envQ = List.replicate 9 (completes false 0xFF) ++ List.replicate 3 (completes false 0xFF) :=
  ⟨⟨rfl, rfl⟩, rfl, rfl, rfl, rfl, rfl⟩
/-- NACK cleared at an acceptance, and set at a TX completion. -/
theorem witness_NackChangesOnlyAsRuled :
    (∃ s t : State, step s = .next t ∧ s.resetting = false ∧ s.nack = true ∧ t.nack = false) ∧
      ∃ s t : State, step s = .next t ∧ s.resetting = false ∧ s.nack = false ∧ t.nack = true := by
  have ⟨hr, t, ht, hn⟩ := stepsTo_next (s := { transacting .i2cStart with nack := true }) (p := fun x => !x.nack)
    (by decide)
  have ⟨hr', t', ht', hn'⟩ := stepsTo_next (s := inPhase .startSent [.tx 0x50] 0 false (completes true 0))
    (p := fun x => x.nack) (by decide)
  exact ⟨⟨_, t, ht, hr, rfl, by simpa using hn⟩, ⟨_, t', ht', hr', rfl, hn'⟩⟩
theorem witness_RxdataChangesOnlyAtRxb :
    ∃ s t : State, step s = .next t ∧ s.resetting = false ∧ s.rxdata = 0 ∧ t.rxdata = 0x5A := by
  have ⟨hr, t, ht, hx⟩ := stepsTo_next (s := inPhase .addrSentRead [.rxb, .nak] 0 false (completes false 0x5A))
    (p := fun x => x.rxdata == 0x5A) (by decide)
  exact ⟨_, t, ht, hr, rfl, by simpa using hx⟩

/-! The device, the chain, the host. -/

theorem witness_WriteTransactionTakesOrNot : ∃ after : TouchController,
    after = ((((TouchController.powerUp.hear .s false).hear (.w 0x50 false) false).hear (.w 0x72 false) false).hear
      (.w 0xFF false) false).hear .p true := ⟨_, rfl⟩
theorem witness_OnlyStopChangesRegisters : BusEvent.x ≠ .p := by decide
theorem witness_RegistersFollowTheTransactions :
    ∀ r : Byte, TouchController.powerUp.reg r = regAfter r (unlistedReg r.toNat) TouchController.powerUp.log :=
  fun _ => rfl
/-- Four writes of which the first takes, then a read with a NACKed address; both premises hold together. -/
theorem witness_FourWritesTwoReads :
    let writes : List DevOp := [.write 0x72 0xFF true, .write 0x72 0xFF true, .write 0x72 0xFF true, .write 0x72 0xFF true]
    envWriteTakes ([] ++ writes) ∧
      envReadFresh 0x72 0 .unwritten
        ([] ++ [.write 0x72 0xFF true, .write 0x72 0xFF true, .write 0x72 0xFF true, .write 0x72 0xFF true,
          .read 0x72 0x00 false, .read 0x72 0xFF true]) := by
  refine ⟨fun r d before takes after h hl => ?_, by simp [envReadFresh, Freshness.allows, Freshness.afterRead]⟩
  match takes, hl with
  | t :: rest, _ =>
    have hm : (d, t) ∈ writesTo r ([] ++ [.write 0x72 0xFF true, .write 0x72 0xFF true, .write 0x72 0xFF true,
        .write 0x72 0xFF true]) := by rw [h]; simp
    simp only [writesTo, List.nil_append, List.mem_filterMap] at hm
    obtain ⟨op, hop, hd⟩ := hm
    have : op = .write 0x72 0xFF true := by simpa using hop
    subst this
    simp only [Option.ite_none_right_eq_some, Option.some.injEq, Prod.mk.injEq] at hd
    simp [hd.2.2]
/-- A complete pixel and a bit of the next, latched or bad. -/
theorem witness_LatchShowsPixelsInOrder :
    let c : LedChain := { smallChain with pending := ([0x123456].map pixelBitList).flatten ++ [true] }
    c.pending = ([(0x123456 : Pixel)].map pixelBitList).flatten ++ [true] ∧ [true].length < 24 ∧
      c.disp[0]? = some (.shown 1) ∧ c.disp[1]? = some (.shown 2) ∧ c.bad = false ∧
      ({ c with bad := true } : LedChain).bad = true := by decide
/-- 64 pixels with gaps of 0 and of GAP_TOL. -/
theorem witness_FrameIsDisplayed :
    let c : LedChain := { LedChain.powerUp with bad := false, afterReset := false }
    exp.Wf ∧ c.latched ∧ c.disp.length = 64 ∧ ((List.range 64).map fun k => (BitVec.ofNat 24 k, k % 3)).length = 64 ∧
      (∀ x ∈ (List.range 64).map fun k => ((BitVec.ofNat 24 k : Pixel), k % 3), x.2 ≤ exp.gapTol) ∧
      exp.latchCycles ≤ 23 := by
  refine ⟨test_exp_wf, ⟨rfl, rfl, rfl, rfl⟩, rfl, rfl, fun x hx => ?_, by decide⟩
  obtain ⟨k, _, rfl⟩ := List.mem_map.mp hx
  show k % 3 ≤ 2
  omega
/-- The chain of these tests with a pulse (h, l) open. -/
def openChain (h l : Nat) : LedChain := { smallChain with high := h, low := l }

/-- An unknown shape, and a "0" with a low time one above the tolerance and below LATCH_CYCLES. -/
theorem witness_OffNominalPulseIsHavoc :
    (fun c : LedChain => 0 < c.high ∧ 0 < c.low ∧ c.low < exp.latchCycles ∧ c.high ≠ exp.t0h ∧ c.high ≠ exp.t1h)
        (openChain 4 14) ∧
      (fun c : LedChain => 0 < c.high ∧ 0 < c.low ∧ c.low < exp.latchCycles ∧ bitPeriod - c.high + exp.gapTol < c.low)
        (openChain 6 17) := by decide
/-- A reset in the first and in the last cycle of a "1" bit; a cut "1" that is as long as a "0", at each of its ends. -/
theorem witness_ResetCutsThePulse :
    ((withRst { finalEmit with ph := 0 }).mode = .led ∧ (withRst { finalEmit with ph := 0 }).resetting = true ∧
        0 < highCycles Config.params ((withRst { finalEmit with ph := 0 }).sr.getLsbD 23) - 1) ∧
      ((withRst finalEmit).mode = .led ∧ (withRst finalEmit).resetting = true ∧
        highCycles Config.params ((withRst finalEmit).sr.getLsbD 23) - 1 ≤ 19) ∧
      (fun c : LedChain => 0 < c.high ∧ c.cut = true ∧ 0 < c.low ∧ c.low < exp.latchCycles ∧ 1 < c.disp.length)
        { openChain 6 14 with cut := true } ∧
      ({ openChain 6 22 with cut := true } : LedChain).low + 1 = exp.latchCycles := by
  have h : (withRst finalEmit).sr.getLsbD 23 = true := by decide
  have h0 : (withRst { finalEmit with ph := 0 }).sr.getLsbD 23 = true := by decide
  have ht := Config.t1hLess11.isLt
  refine ⟨⟨rfl, by decide, ?_⟩, ⟨rfl, by decide, ?_⟩, by decide, by decide⟩
  · rw [h0]
    simp only [highCycles, Config.params, if_true]
    omega
  · rw [h]
    simp only [highCycles, Config.params, if_true]
    omega
/-- A reset in an LED command; a "1" and a "0" open in their low time with four bits pending, one low cycle before the latch and
earlier. -/
theorem witness_ResetKeepsWhatTheChainReceived :
    (withRst finalEmit).resetting = true ∧ exp.Wf ∧
      (∀ p ∈ [(true, 13, 7, 15), (false, 6, 22, 0)],
        (fun c : LedChain => c.high = highCycles exp p.1 ∧ c.cut = false ∧ c.bad = false ∧
            c.low + (p.2.2.2 + 1) = exp.latchCycles)
          (LedChain.markReset { openChain p.2.1 p.2.2.1 with pending := [true, false, true, true] })) :=
  ⟨by decide, test_exp_wf, by decide⟩
/-- A chain with nothing pending at a reset, latched and BAD; a pulse at once, and one cycle before the latch. -/
theorem witness_IdleAfterReset :
    (withRst finalEmit).resetting = true ∧ exp.Wf ∧ (0 < exp.latchCycles ∧ 22 < exp.latchCycles) ∧ ∀ b : Bool,
      (fun c : LedChain => c.afterReset = true ∧ c.high = 0 ∧ c.low = 0 ∧ c.pending = [] ∧ c.bad = b ∧ 1 < c.disp.length)
        (LedChain.markReset { smallChain with bad := b }) :=
  ⟨by decide, test_exp_wf, by decide, by decide⟩
theorem witness_WaitsPollStatus :
    (∃ t, step { State.reset with prog := [.waitDone] } = .next t) ∧
      ∃ t, step { delaying 9 with prog := [.waitIdle] } = .next t := ⟨steps_of (by decide), steps_of (by decide)⟩

end Sys2Proof.Tests
end

