-- ==== Sys2Proof/Proofs/Scope.lean ====
section
/-! The parameters of 00_scope: both pulse shapes fill one bit period, and the "1" is the longer high pulse. -/
namespace Sys2Proof

theorem Params.t0h_add_t0l {p : Params} (h : p.t0h ≤ bitPeriod) : p.t0h + p.t0l = bitPeriod :=
  Nat.add_sub_of_le h

theorem Params.t1h_add_t1l {p : Params} (h : p.t1h ≤ bitPeriod) : p.t1h + p.t1l = bitPeriod :=
  Nat.add_sub_of_le h

end Sys2Proof

namespace Sys2Proof.Machine

/-- Settles O31: the ranges of T0H and T1H keep both high times within the bit period, so that the truncated subtractions in
T0L and T1L are exact; the comparisons are constraints of 00_scope R8. -/
theorem pulseInvariant : Obligations.PulseInvariant := by
  obtain ⟨⟨-, h0⟩, -, h1⟩ := Config.pulse_range
  obtain ⟨-, -, h0l, h01, h1l, -⟩ := Config.params_wf
  have hb : bitPeriod = 20 := rfl
  exact ⟨Params.t0h_add_t0l (by omega), Params.t1h_add_t1l (by omega), h01, h0l, h1l, hb⟩

end Sys2Proof.Machine
end

section
/-! The rules of one edge: which inputs reset the block, and the two case lists the statements below are read from, what an access
can do (`AccessResult`) and what the advance of the active command can do (`AdvanceResult`). -/
namespace Sys2Proof.Machine

/-! ## Which accesses reset the block (10_state R46 step 0) -/

theorem resetting_iff (s : State) :
    s.resetting = true ↔ s.pins.rst = true ∨ ∃ v, s.port = .write 0 v ∧ v.getLsbD 1 = true := by
  unfold State.resetting
  cases s.port with
  | write k v => simp
  | none => simp
  | read k => simp
  | narrow => simp

/-- Without RST, a read does not reset the block. -/
theorem not_resetting_of_read {s : State} {k : BitVec 3} (hr : s.pins.rst = false) (hp : s.port = .read k) :
    s.resetting = false := by
  simp [State.resetting, hr, hp]

/-- Without RST, a write resets the block only if it writes 1 to bit 1 of CTRL. -/
theorem not_resetting_of_write {s : State} {k : BitVec 3} {v : Word} (hr : s.pins.rst = false)
    (hp : s.port = .write k v) (hk : k ≠ 0 ∨ v.getLsbD 1 = false) : s.resetting = false := by
  simpa [State.resetting, hr, hp, imp_iff_not_or] using hk

/-! ## The effect of a write, register by register (10_state R46 step 2) -/

section
variable (now s : State) (v : Word)

@[simp] theorem accessEffect_read (k : BitVec 3) : accessEffect now (.read k) s = s := rfl
@[simp] theorem accessEffect_ctrl : accessEffect now (.write 0 v) s = writeCtrl v now s := rfl
@[simp] theorem accessEffect_status : accessEffect now (.write 1 v) s = writeStatus v now s := rfl
@[simp] theorem accessEffect_bitrate : accessEffect now (.write 4 v) s = writeBitrate v now s := rfl

theorem accessEffect_command {i : Instr} (h : decode v = .command i) :
    accessEffect now (.write 2 v) s = acceptCommand now s (gateOf i) (startOf i) := by
  simp [accessEffect, h]

theorem accessEffect_illegal {why : IllegalWord} (h : decode v = .illegal why) :
    accessEffect now (.write 2 v) s = acceptCommand now s illegalGate id := by
  simp [accessEffect, h]

end

/-! ## The three writes that are no commands, case by case (10_state R28, R29, R36, R39) -/

theorem writeCtrl_busy {now : State} (s : State) (v : Word) (hb : now.busy = true) :
    writeCtrl v now s = s.raise .ovr := by
  simp [writeCtrl, hb]

theorem writeCtrl_enable {now : State} (s : State) {v : Word} (hb : now.busy = false) (hv : v.getLsbD 0 = true) :
    writeCtrl v now s = { s with i2cEn := true } := by
  simp only [writeCtrl, hb, hv, Bool.false_eq_true, if_false, if_true]

theorem writeCtrl_disable {now s : State} {v : Word} (hb : now.busy = false) (hv : v.getLsbD 0 = false)
    (hm : s.i2cState.midTransaction = false) : writeCtrl v now s = { s with i2cEn := false, i2cState := .idle } := by
  simp only [writeCtrl, hb, hv, hm, Bool.false_eq_true, if_false]

theorem writeCtrl_abandon {now s : State} {v : Word} (hb : now.busy = false) (hv : v.getLsbD 0 = false)
    (hm : s.i2cState.midTransaction = true) :
    writeCtrl v now s = { s.busEvent .x with i2cEn := false, i2cState := .idle } := by
  simp only [writeCtrl, hb, hv, hm, Bool.false_eq_true, if_false, if_true]

theorem writeStatus_ignored (now s : State) {v : Word} (hv : v.getLsbD 1 = false) : writeStatus v now s = s := by
  simp only [writeStatus, hv, Bool.false_and, Bool.false_eq_true, if_false]

/-- DONE set at the same edge wins over the clear. -/
theorem writeStatus_set_wins {now s : State} (v : Word) (h : s.done = true ∧ now.done = false) :
    writeStatus v now s = s := by
  simp [writeStatus, h.1, h.2]

theorem writeStatus_clears {now s : State} {v : Word} (hv : v.getLsbD 1 = true)
    (h : ¬ (s.done = true ∧ now.done = false)) : writeStatus v now s = s.clearDone := by
  have hset : (s.done && !now.done) = false := by simpa using h
  simp only [writeStatus, hv, hset, Bool.not_false, Bool.and_self, if_true]

theorem writeBitrate_busy {now : State} (s : State) (v : Word) (hb : now.busy = true) :
    writeBitrate v now s = s.raise .ovr := by
  simp [writeBitrate, hb]

theorem writeBitrate_ready {now : State} (s : State) (v : Word) (hb : now.busy = false) :
    writeBitrate v now s = { s with bitrate := v.extractLsb' 0 16 } := by
  simp [writeBitrate, hb]

/-- The edge without reset, of an access the block defines, from a sequencer state the rules describe. -/
theorem blockEdge_of_seqOk {s : State} (hr : s.resetting = false) (hn : s.port ≠ .narrow) (hs : s.seqOk = true) :
    blockEdge s = .next (accessEffect s s.port s.advance) := by
  unfold blockEdge
  rw [← onEdge_of_seqOk _ hs]
  cases hp : s.port with
  | none => simp [hr]; rfl
  | read k => simp [hr]; rfl
  | narrow => exact absurd hp hn
  | write k v => simp [hr, writeWord_eq_onEdge]

/-- An error a gate rejects a command with is an error. -/
theorem gateOf_ne_none {i : Instr} {s : State} {code : ErrCode} (h : gateOf i s = some code) : code ≠ .none := by
  have hi2c : ∀ legal : I2cState → Bool, i2cGate legal s = some code → code ≠ .none := by
    intro legal hg
    unfold i2cGate at hg
    split at hg
    · cases hg; decide
    · split at hg
      · cases hg; decide
      · cases hg
  cases i with
  | emit0 | emit1 | wcolor | dlys | dlyl | dlyn => cases h
  | i2cStart | i2cRestart | i2cStop | i2cTx | i2cRxn | i2cWreg | i2cRreg => exact hi2c _ h

/-- What an access can make of the state `s` after step 1, where `now` is the state of the access's cycle
(10_state R46 step 2, R49). -/
inductive AccessResult (now s : State) : PortAccess → State → Prop
  /-- Nothing: no access, a read, an ignored write, or a STATUS write that does not clear DONE. -/
  | unchanged (p : PortAccess)
      (hp : ∀ v, p = .write 1 v → v.getLsbD 1 = true → s.done = true ∧ now.done = false) : AccessResult now s p s
  /-- A write to CTRL, CMD or BITRATE while BUSY = 1. -/
  | overrun (p : PortAccess) (hb : now.busy = true) : AccessResult now s p (s.raise .ovr)
  /-- A STATUS write that clears DONE. -/
  | cleared (v : Word) (hv : v.getLsbD 1 = true) : AccessResult now s (.write 1 v) s.clearDone
  | bitrate (v : Word) (hb : now.busy = false) :
      AccessResult now s (.write 4 v) { s with bitrate := v.extractLsb' 0 16 }
  | enabled (v : Word) (hb : now.busy = false) : AccessResult now s (.write 0 v) { s with i2cEn := true }
  | disabled (v : Word) (hb : now.busy = false) (hm : s.i2cState.midTransaction = false) :
      AccessResult now s (.write 0 v) { s with i2cEn := false, i2cState := .idle }
  /-- Clearing I2C_EN between START and STOP (10_state R29). -/
  | abandoned (v : Word) (hb : now.busy = false) (hm : s.i2cState.midTransaction = true) :
      AccessResult now s (.write 0 v) { s.busEvent .x with i2cEn := false, i2cState := .idle }
  | rejected (w : Word) (code : ErrCode) (hb : now.busy = false) (hc : code ≠ .none) :
      AccessResult now s (.write 2 w) (s.clearDone.reject code)
  | started (w : Word) (i : Instr) (hb : now.busy = false) (hd : decode w = .command i)
      (hg : gateOf i s.clearDone = none) : AccessResult now s (.write 2 w) (startOf i s.clearDone).started

theorem writeCtrl_result (now s : State) (v : Word) : AccessResult now s (.write 0 v) (writeCtrl v now s) := by
  cases hb : now.busy with
  | true => rw [writeCtrl_busy s v hb]; exact .overrun _ hb
  | false =>
    cases hv : v.getLsbD 0 with
    | true => rw [writeCtrl_enable s hb hv]; exact .enabled v hb
    | false =>
      cases hm : s.i2cState.midTransaction with
      | false => rw [writeCtrl_disable hb hv hm]; exact .disabled v hb hm
      | true => rw [writeCtrl_abandon hb hv hm]; exact .abandoned v hb hm

theorem writeStatus_result (now s : State) (v : Word) : AccessResult now s (.write 1 v) (writeStatus v now s) := by
  cases hv : v.getLsbD 1 with
  | false =>
    rw [writeStatus_ignored now s hv]
    exact .unchanged _ fun v' e hv' => by cases e; rw [hv] at hv'; cases hv'
  | true =>
    by_cases hset : s.done = true ∧ now.done = false
    · rw [writeStatus_set_wins v hset]; exact .unchanged _ fun _ _ _ => hset
    · rw [writeStatus_clears hv hset]; exact .cleared v hv

theorem writeBitrate_result (now s : State) (v : Word) :
    AccessResult now s (.write 4 v) (writeBitrate v now s) := by
  cases hb : now.busy with
  | true => rw [writeBitrate_busy s v hb]; exact .overrun _ hb
  | false => rw [writeBitrate_ready s v hb]; exact .bitrate v hb

theorem writeCmd_result (now s : State) (w : Word) :
    AccessResult now s (.write 2 w) (accessEffect now (.write 2 w) s) := by
  cases hd : decode w with
  | command i =>
    rw [accessEffect_command _ _ _ hd]
    rcases acceptCommand_cases now s (gateOf i) (startOf i) with ⟨hb, e⟩ | ⟨hb, code, hg, e⟩ | ⟨hb, hg, e⟩ <;> rw [e]
    · exact .overrun _ hb
    · exact .rejected w code hb (gateOf_ne_none hg)
    · exact .started w i hb hd hg
  | illegal why =>
    rw [accessEffect_illegal _ _ _ hd]
    cases hb : now.busy with
    | true => rw [acceptCommand_busy _ _ _ hb]; exact .overrun _ hb
    | false =>
      rw [acceptCommand_rejected (code := .ill) _ hb rfl]
      exact .rejected w _ hb (by decide)

/-- The word offsets: CTRL, STATUS, CMD, BITRATE, and those whose writes are ignored (20_memory R65). -/
theorem wordIndex_cases (k : BitVec 3) : k = 0 ∨ k = 1 ∨ k = 2 ∨ k = 4 ∨ k = 3 ∨ k = 5 ∨ k = 6 ∨ k = 7 := by
  revert k; decide

/-- Every access has one of these results. -/
theorem accessEffect_result (now s : State) (p : PortAccess) : AccessResult now s p (accessEffect now p s) := by
  cases p with
  | none => exact .unchanged _ nofun
  | read k => exact .unchanged _ nofun
  | narrow => exact .unchanged _ nofun
  | write k v =>
    rcases wordIndex_cases k with rfl | rfl | rfl | rfl | ignored
    · exact writeCtrl_result now s v
    · exact writeStatus_result now s v
    · exact writeCmd_result now s v
    · exact writeBitrate_result now s v
    · rcases ignored with rfl | rfl | rfl | rfl <;> exact .unchanged _ nofun

/-- A step without reset is the advance of the active command, a result of the access, and the end of the cycle. -/
theorem step_not_resetting {s t : State} (h : step s = .next t) (hr : s.resetting = false) :
    s.seqOk = true ∧ ∃ u, AccessResult s s.advance s.port u ∧ t = endCycle s u := by
  rcases step_next_cases h with ⟨hr', _⟩ | ⟨_, _, hs, e⟩
  · rw [hr] at hr'; cases hr'
  · exact ⟨hs, _, accessEffect_result s s.advance s.port, e⟩

/-! ## States that are not busy, and what the advance leaves of them -/

theorem not_busy_mode {s : State} (hb : s.busy = false) : s.mode ≠ .i2c := by
  intro hm
  simp [State.busy, hm] at hb

theorem advance_mode_of_not_busy {s : State} (hs : s.seqOk = true) (hb : s.busy = false) :
    s.advance.mode = .idle := by
  rw [advance_of_not_busy hs hb]

theorem advance_done_of_not_busy {s : State} (hs : s.seqOk = true) (hb : s.busy = false) :
    s.advance.done = s.done := by
  rw [advance_of_not_busy hs hb]

theorem advance_i2cState_of_not_busy {s : State} (hs : s.seqOk = true) (hb : s.busy = false) :
    s.advance.i2cState = s.i2cState := by
  rw [advance_of_not_busy hs hb]

/-- A final cycle is not busy (10_state R31). -/
theorem not_busy_of_final {s : State} (hf : s.final = true) : s.busy = false := by
  cases hm : s.mode with
  | idle => simp [State.busy, hm]
  | led => simp [State.busy, hm, hf]
  | dly =>
    have hr : s.rem = 1 := by simpa [State.final, hm] using hf
    simp [State.busy, hm, hr]
  | i2c => simp [State.final, hm] at hf

/-! ## I2C_STATE after a DONE clear, and in the middle of a transaction -/

theorem afterClear_of_ne_stopSent {st : I2cState} (h : st ≠ .stopSent) : st.afterClear = st := by
  cases st with
  | stopSent => exact absurd rfl h
  | _ => rfl

theorem afterClear_ne_stopSent (st : I2cState) : st.afterClear ≠ .stopSent := by
  cases st <;> decide

theorem midTransaction_iff (st : I2cState) : st.midTransaction = true ↔ st ≠ .idle ∧ st ≠ .stopSent := by
  cases st <;> decide

/-! ## The advance of the active command (10_state R46 step 1), said once for every mode -/

/-- What step 1 can make of a state the rules describe. -/
inductive AdvanceResult (s : State) : State → Prop
  /-- BUSY = 0: the command before, if there was one, has ended. -/
  | ended (hb : s.busy = false) :
      AdvanceResult s { s with mode := .idle, rem := if s.mode = .dly then 0 else s.rem }
  /-- A cycle of an LED command inside a bit. -/
  | ledCycle (hm : s.mode = .led) (hf : s.final = false) (hp : s.ph < bitPeriod - 1) :
      AdvanceResult s { s with ph := s.ph + 1, done := s.done || ({ s with ph := s.ph + 1 } : State).final }
  /-- The last cycle of a bit that is not the command's last. -/
  | ledBit (hm : s.mode = .led) (hf : s.final = false) (hp : ¬ s.ph < bitPeriod - 1) :
      AdvanceResult s
        { s with
          ph := 0, sr := s.sr <<< 1, bl := s.bl - 1
          done := s.done || ({ s with ph := 0, sr := s.sr <<< 1, bl := s.bl - 1 } : State).final }
  | dlyCycle (hm : s.mode = .dly) (hr : 2 ≤ s.rem) :
      AdvanceResult s { s with rem := s.rem - 1, done := s.done || decide (s.rem = 2) }
  | i2cWaits (hm : s.mode = .i2c) (he : s.env.done = false) : AdvanceResult s s
  | i2cPhase (q : Phase) (hm : s.mode = .i2c) (he : s.env.done = true) (hq : s.pl[s.pidx]? = some q)
      (hl : s.pidx + 1 ≠ s.pl.length) : AdvanceResult s { s.applyPhase q with pidx := s.pidx + 1 }
  | i2cLast (q : Phase) (hm : s.mode = .i2c) (he : s.env.done = true) (hq : s.pl[s.pidx]? = some q)
      (hl : s.pidx + 1 = s.pl.length) :
      AdvanceResult s ({ s.applyPhase q with pidx := s.pidx + 1 } : State).finishI2c

/-- The advance has one of these results. -/
theorem advance_result {s : State} (hs : s.seqOk = true) : AdvanceResult s s.advance := by
  cases hb : s.busy with
  | false => rw [advance_of_not_busy hs hb]; exact .ended hb
  | true =>
    cases hm : s.mode with
    | idle => simp [State.busy, hm] at hb
    | led =>
      have hf : s.final = false := by simpa [State.busy, hm] using hb
      rw [advance_led hm hf]
      split
      · next hp => exact .ledCycle hm hf hp
      · next hp => exact .ledBit hm hf hp
    | dly =>
      have hr : 2 ≤ s.rem := by simpa [State.busy, hm] using hb
      rw [advance_dly hm hr]
      exact .dlyCycle hm hr
    | i2c =>
      rcases advance_i2c_cases hm hs with ⟨he, e⟩ | ⟨q, he, hq, ⟨hl, e⟩ | ⟨hl, e⟩⟩ <;> rw [e]
      · exact .i2cWaits hm he
      · exact .i2cPhase q hm he hq hl
      · exact .i2cLast q hm he hq hl

/-- Step 1 is a function of the block's state and the environment's draws: each result is that of one state only. -/
theorem AdvanceResult.eq_advance {s u : State} (hs : s.seqOk = true) (h : AdvanceResult s u) : s.advance = u := by
  cases h with
  | ended hb => exact advance_of_not_busy hs hb
  | ledCycle hm hf hp => rw [advance_led hm hf, if_pos hp]
  | ledBit hm hf hp => rw [advance_led hm hf, if_neg hp]
  | dlyCycle hm hr => exact advance_dly hm hr
  | i2cWaits hm he => exact advance_i2c_waits hm he
  | i2cPhase q hm he hq hl => exact advance_i2c_phase hm he hq hl
  | i2cLast q hm he hq hl => exact advance_i2c_last hm he hq hl

/-- Step 1 does not look at the host's script. -/
theorem AdvanceResult.with_hostQ {s u : State} (q : List PinCycle) (h : AdvanceResult s u) :
    AdvanceResult { s with hostQ := q } { u with hostQ := q } := by
  cases h with
  | ended hb => exact .ended hb
  | ledCycle hm hf hp => exact .ledCycle hm hf hp
  | ledBit hm hf hp => exact .ledBit hm hf hp
  | dlyCycle hm hr => exact .dlyCycle hm hr
  | i2cWaits hm he => exact .i2cWaits hm he
  | i2cPhase ph hm he hq hl => exact .i2cPhase ph hm he hq hl
  | i2cLast ph hm he hq hl => exact .i2cLast ph hm he hq hl

theorem advance_with_hostQ {s : State} (q : List PinCycle) (hs : s.seqOk = true) :
    ({ s with hostQ := q } : State).advance = { s.advance with hostQ := q } :=
  ((advance_result hs).with_hostQ q).eq_advance hs

/-- Step 1 does not touch the error record. -/
theorem AdvanceResult.keeps_error {s u : State} (h : AdvanceResult s u) : u.err = s.err ∧ u.errCode = s.errCode := by
  cases h <;> exact ⟨rfl, rfl⟩

/-- Step 1 changes NACK and RXDATA only where a phase completes, as that phase says (10_state R34, R38). -/
theorem AdvanceResult.nack_rxdata {s u : State} (h : AdvanceResult s u) :
    (u.nack = s.nack ∧ u.rxdata = s.rxdata) ∨
      ∃ q, s.mode = .i2c ∧ s.env.done = true ∧ s.pl[s.pidx]? = some q ∧
        u.nack = q.nextNack s.nack s.env ∧ u.rxdata = q.nextRxdata s.rxdata s.env := by
  cases h with
  | ended | ledCycle | ledBit | dlyCycle | i2cWaits => exact .inl ⟨rfl, rfl⟩
  | i2cPhase q hm he hq hl => exact .inr ⟨q, hm, he, hq, rfl, rfl⟩
  | i2cLast q hm he hq hl => exact .inr ⟨q, hm, he, hq, rfl, rfl⟩

theorem nextNack_cases {q : Phase} {nack : Bool} {e : EnvInput} (h : q.nextNack nack e ≠ nack) :
    (∃ b, q = .tx b) ∧ q.nextNack nack e = (nack || e.ack) := by
  cases q with
  | tx b => exact ⟨⟨b, rfl⟩, rfl⟩
  | start | restart | rxb | nak | stop => exact absurd rfl h

theorem nextRxdata_cases {q : Phase} {b : Byte} {e : EnvInput} (h : q.nextRxdata b e ≠ b) :
    q = .rxb ∧ q.nextRxdata b e = e.rx := by
  cases q with
  | rxb => exact ⟨rfl, rfl⟩
  | start | restart | tx _ | nak | stop => exact absurd rfl h

end Sys2Proof.Machine
end

section
/-! The invariant of the machine: it holds at reset, and every operation of the block and the end of the cycle keep it. -/
namespace Sys2Proof.Machine

/-! ## Phase lists that fit the graph (43_i2c_primitives R131, R133) -/

/-- The phases left of a command run through from this state, as `State.Inv.on_graph` asks. -/
def PhasesFit (st : I2cState) (phases : List Phase) (xact : Bool) : Prop :=
  ∃ last, phasesFrom st phases = some last ∧ last ≠ .dataReceived ∧ (xact = true → last = .stopSent)

/-- The transition table says what a phase does to I2C_STATE. -/
theorem nextState_of_phaseStep {st next : I2cState} {q : Phase} (h : phaseStep st q = some next) :
    q.nextState st = next := by
  unfold phaseStep at h
  split at h <;> cases h <;> rfl

theorem PhasesFit.tail {st : I2cState} {q : Phase} {rest : List Phase} {xact : Bool}
    (h : PhasesFit st (q :: rest) xact) : PhasesFit (q.nextState st) rest xact := by
  obtain ⟨last, hfrom, hlast⟩ := h
  cases hq : phaseStep st q with
  | none => simp [phasesFrom, hq] at hfrom
  | some next =>
    rw [nextState_of_phaseStep hq]
    exact ⟨last, by simpa [phasesFrom, hq] using hfrom, hlast⟩

/-- At the end of the phases the state is not DATA_RECEIVED, and it is STOP_SENT for a transaction command. -/
theorem PhasesFit.at_end {st : I2cState} {xact : Bool} (h : PhasesFit st [] xact) :
    st ≠ .dataReceived ∧ (xact = true → st = .stopSent) := by
  obtain ⟨last, hfrom, hlast⟩ := h
  cases hfrom
  exact hlast

/-- No phase leaves STOP_SENT. -/
theorem PhasesFit.ne_stopSent {st : I2cState} {q : Phase} {rest : List Phase} {xact : Bool}
    (h : PhasesFit st (q :: rest) xact) : st ≠ .stopSent := by
  rintro rfl
  obtain ⟨last, hfrom, -⟩ := h
  cases q <;> cases hfrom

/-! The phases of each I2C command fit every state the command is legal in (43_i2c_primitives R132). -/

theorem start_fits {st : I2cState} (h : legalStart st = true) : PhasesFit st [.start] false := by
  obtain rfl : st = .idle := by simpa [legalStart] using h
  exact ⟨_, rfl, nofun, nofun⟩

theorem restart_fits {st : I2cState} (h : legalRestart st = true) : PhasesFit st [.restart] false := by
  obtain rfl : st = .regSent := by simpa [legalRestart] using h
  exact ⟨_, rfl, nofun, nofun⟩

theorem stop_fits {st : I2cState} (h : legalStop st = true) : PhasesFit st [.stop] false := by
  have hst : st = .dataSent ∨ st = .ackSent := by simpa [legalStop] using h
  rcases hst with rfl | rfl <;> exact ⟨_, rfl, nofun, nofun⟩

theorem tx_fits {b : Byte} {st : I2cState} (h : legalTx b st = true) : PhasesFit st [.tx b] false := by
  simp only [legalTx, Bool.or_eq_true, Bool.and_eq_true, beq_iff_eq] at h
  rcases h with ((⟨rfl, -⟩ | rfl) | rfl) | ⟨rfl, -⟩ <;> exact ⟨_, rfl, nofun, nofun⟩

theorem rxn_fits {st : I2cState} (h : legalRxn st = true) : PhasesFit st [.rxb, .nak] false := by
  obtain rfl : st = .addrSentRead := by simpa [legalRxn] using h
  exact ⟨_, rfl, nofun, nofun⟩

theorem wreg_fits (a : BitVec 7) (r d : Byte) {st : I2cState} (h : legalWreg st = true) :
    PhasesFit st (wregPhases a r d) true := by
  obtain rfl : st = .idle := by simpa [legalWreg] using h
  exact ⟨_, rfl, nofun, fun _ => rfl⟩

theorem rreg_fits (a : BitVec 7) (r : Byte) {st : I2cState} (h : legalRreg st = true) :
    PhasesFit st (rregPhases a r) true := by
  obtain rfl : st = .idle := by simpa [legalRreg] using h
  exact ⟨_, rfl, nofun, fun _ => rfl⟩

/-! ## The invariant under the operations of the block -/

/-- A delay takes at least one cycle (40_cycle_delay R104). -/
theorem delayCycles_pos {p : Params} (hp : 1 ≤ p.shortCycles) (n : BitVec 16) : 1 ≤ delayCycles p n := by
  unfold delayCycles
  split
  · exact Nat.le_refl 1
  · next hn =>
    have h0 : n.toNat ≠ 0 := fun e => hn (BitVec.eq_of_toNat_eq e)
    exact Nat.mul_pos (Nat.pos_of_ne_zero h0) hp

/-- LATCH_CYCLES is at least one (00_scope R8). -/
theorem latchCycles_pos : 0 < Config.params.latchCycles := by
  obtain ⟨-, -, -, -, -, -, -, -, hlatch, -⟩ := Config.params_wf
  exact Nat.zero_lt_of_lt hlatch

/-- Settles O28: at reset no command is active, the chain has no pulse open, and no device register is listed. -/
theorem invariantAtReset : Obligations.InvariantAtReset where
  seq := rfl
  phase := by decide
  bits := by decide
  index := by decide
  done_of_busy := nofun
  error_record := by decide
  disabled := fun _ => ⟨rfl, nofun⟩
  transaction := nofun
  stop_sent := nofun
  data_received := nofun
  on_graph := nofun
  pulse_open := nofun
  pending_open := fun _ => rfl
  regs := State.reset_registers_wf
  cells := by decide

namespace State.Inv

variable {s : State}

/-- Outside I2C mode no transaction is in progress and no byte waits for its acknowledge. -/
theorem not_i2c (h : s.Inv) (hm : s.mode ≠ .i2c) : s.xact = false ∧ s.i2cState ≠ .dataReceived := by
  refine ⟨?_, fun e => hm (h.data_received e)⟩
  cases hx : s.xact with
  | false => rfl
  | true => exact absurd (h.transaction hx) hm

/-- While an I2C command runs, I2C_STATE is not STOP_SENT: that state waits for DONE to be cleared, and DONE is not set. -/
theorem ne_stopSent_of_i2c (h : s.Inv) (hm : s.mode = .i2c) : s.i2cState ≠ .stopSent := by
  intro e
  have hd : s.done = false := h.done_of_busy (by simp [State.busy, hm])
  rw [h.stop_sent e] at hd
  cases hd

theorem raise (h : s.Inv) {code : ErrCode} (hc : code ≠ .none) : (s.raise code).Inv :=
  { h with
    error_record := by
      cases he : s.err with
      | false => simp [he, hc]
      | true => simp [he, ← h.error_record] }

theorem clearDone (h : s.Inv) : s.clearDone.Inv :=
  { h with
    done_of_busy := fun _ => rfl
    disabled := fun he => by
      obtain ⟨hst, hm⟩ := h.disabled he
      exact ⟨by simp [hst, I2cState.afterClear], hm⟩
    stop_sent := fun e => absurd e (afterClear_ne_stopSent _)
    data_received := fun e => by
      by_cases hss : s.i2cState = .stopSent
      · simp [hss, I2cState.afterClear] at e
      · exact h.data_received ((afterClear_of_ne_stopSent hss).symm.trans e)
    on_graph := fun hm => by
      rw [State.clearDone_i2cState, afterClear_of_ne_stopSent (h.ne_stopSent_of_i2c hm)]
      exact h.on_graph hm }

theorem reject (h : s.Inv) {code : ErrCode} (hc : code ≠ .none) (hm : s.mode ≠ .i2c) : (s.reject code).Inv :=
  { h.raise hc with
    seq := rfl
    done_of_busy := fun hb => by cases hb
    disabled := fun he => ⟨(h.disabled he).1, nofun⟩
    transaction := fun hx => by rw [State.reject_xact, (h.not_i2c hm).1] at hx; cases hx
    stop_sent := fun _ => rfl
    data_received := fun e => absurd e (h.not_i2c hm).2
    on_graph := fun e => by cases e }

/-- A command that takes its place in LED mode. -/
theorem startLed (h : s.Inv) (hm : s.mode ≠ .i2c) (hd : s.done = false) (sr : Pixel) {bits : Nat} (h1 : 1 ≤ bits)
    (h24 : bits ≤ pixelBits) : (s.startLed sr bits).started.Inv :=
  { h with
    seq := by simp [State.seqOk, bitPeriod, h1, h24]
    phase := (by decide : 0 < bitPeriod)
    bits := h24
    done_of_busy := fun _ => by simp [hd, State.final, bitPeriod]
    disabled := fun he => ⟨(h.disabled he).1, nofun⟩
    transaction := fun hx => by
      rw [State.started_xact, State.startLed_xact, (h.not_i2c hm).1] at hx; cases hx
    stop_sent := fun e => by rw [h.stop_sent e] at hd; cases hd
    data_received := fun e => absurd e (h.not_i2c hm).2
    on_graph := nofun }

/-- A delay that takes its place in DLY mode. -/
theorem startDly (h : s.Inv) (hm : s.mode ≠ .i2c) (hd : s.done = false) {cycles : Nat} (h1 : 1 ≤ cycles) :
    (s.startDly cycles).started.Inv :=
  { h with
    seq := by simp [State.seqOk, h1]
    done_of_busy := fun hb => by
      have h2 : 2 ≤ cycles := of_decide_eq_true hb
      have hne : cycles ≠ 1 := by omega
      simp [hd, State.final, hne]
    disabled := fun he => ⟨(h.disabled he).1, nofun⟩
    transaction := fun hx => by
      rw [State.started_xact, State.startDly_xact, (h.not_i2c hm).1] at hx; cases hx
    stop_sent := fun e => by rw [h.stop_sent e] at hd; cases hd
    data_received := fun e => absurd e (h.not_i2c hm).2
    on_graph := nofun }

/-- An accepted I2C command whose phases fit the states it is legal in. -/
theorem startI2c (h : s.Inv) (hd : s.done = false) {legal : I2cState → Bool} (hg : i2cGate legal s = none)
    {phases : List Phase} {xact : Bool} (hlen : 0 < phases.length ∧ phases.length ≤ 8)
    (hfit : legal s.i2cState = true → PhasesFit s.i2cState phases xact) : (s.startI2c phases xact).started.Inv := by
  obtain ⟨hen, hlegal⟩ := i2cGate_eq_none.mp hg
  exact { h with
    seq := decide_eq_true hlen.1
    index := ⟨Nat.zero_le _, hlen.2⟩
    done_of_busy := fun _ => by simp [hd, State.final]
    disabled := fun he => by
      rw [State.started_i2cEn, State.startI2c_i2cEn, hen] at he; cases he
    transaction := fun _ => rfl
    stop_sent := fun e => by rw [h.stop_sent e] at hd; cases hd
    data_received := fun _ => rfl
    on_graph := fun _ => hfit hlegal }

/-- Every accepted command starts inside the invariant. -/
theorem start (h : s.Inv) (hm : s.mode ≠ .i2c) (hd : s.done = false) {i : Instr} (hg : gateOf i s = none) :
    (startOf i s).started.Inv := by
  obtain ⟨-, -, -, -, -, -, hshort, hlong, -⟩ := Config.params_wf
  cases i with
  | emit0 | emit1 => exact h.startLed hm hd _ (by decide) (by decide)
  | wcolor r g b => exact h.startLed hm hd _ (by decide) (by decide)
  | dlys => exact h.startDly hm hd hshort
  | dlyl => exact h.startDly hm hd hlong
  | dlyn n => exact h.startDly hm hd (delayCycles_pos hshort n)
  | i2cStart => exact h.startI2c hd hg (by decide) start_fits
  | i2cRestart => exact h.startI2c hd hg (by decide) restart_fits
  | i2cStop => exact h.startI2c hd hg (by decide) stop_fits
  | i2cTx b => exact h.startI2c hd hg (by simp) tx_fits
  | i2cRxn => exact h.startI2c hd hg (by decide) rxn_fits
  | i2cWreg a r d => exact h.startI2c hd hg (by simp [wregPhases]) (wreg_fits a r d)
  | i2cRreg a r => exact h.startI2c hd hg (by simp [rregPhases]) (rreg_fits a r)

/-- Every access keeps the invariant, where the state after step 1 has MODE IDLE if the block was not busy. -/
theorem access {now u : State} {p : PortAccess} (h : s.Inv) (hidle : now.busy = false → s.mode = .idle)
    (hu : AccessResult now s p u) : u.Inv := by
  have hne : now.busy = false → s.mode ≠ .i2c := fun hb e => by rw [hidle hb] at e; cases e
  cases hu with
  | unchanged => exact h
  | overrun => exact h.raise (by decide)
  | cleared => exact h.clearDone
  | bitrate => exact { h with }
  | enabled => exact { h with disabled := nofun }
  | disabled v hb =>
    exact { h with
      disabled := fun _ => ⟨rfl, hne hb⟩, stop_sent := nofun, data_received := nofun
      on_graph := fun e => absurd e (hne hb) }
  | abandoned v hb =>
    exact { h with
      disabled := fun _ => ⟨rfl, hne hb⟩, stop_sent := nofun, data_received := nofun
      on_graph := fun e => absurd e (hne hb)
      regs := TouchController.hear_wf _ _ h.regs }
  | rejected w code hb hc => exact h.clearDone.reject hc (hne hb)
  | started w i hb hd hg => exact h.clearDone.start (hne hb) rfl hg

/-- The range of BL while an LED command is active (10_state R42). -/
theorem led_bits (h : s.Inv) (hm : s.mode = .led) : 1 ≤ s.bl ∧ s.bl ≤ pixelBits := by
  have hseq := h.seq
  simp only [State.seqOk, hm, Bool.and_eq_true, decide_eq_true_eq] at hseq
  exact ⟨hseq.1.2, hseq.2⟩

/-- An LED command moves on inside its ranges, and DONE is set with its final cycle. -/
theorem ledMoves (h : s.Inv) (hm : s.mode = .led) (hf : s.final = false) (sr : Pixel) {ph bl : Nat}
    (hp : ph < bitPeriod) (h1 : 1 ≤ bl) (h24 : bl ≤ pixelBits) :
    ({ s with
        ph := ph, sr := sr, bl := bl
        done := s.done || ({ s with ph := ph, sr := sr, bl := bl } : State).final } : State).Inv :=
  { h with
    seq := by simp [State.seqOk, hm, hp, h1, h24]
    phase := hp
    bits := h24
    done_of_busy := fun hb => by
      have hd : s.done = false := h.done_of_busy (by simp [State.busy, hm, hf])
      simpa [State.busy, State.final, hm, hd, imp_iff_not_or] using hb
    stop_sent := fun e => by simp [h.stop_sent e] }

/-- A delay with at least two cycles left goes on, and DONE is set with its final cycle. -/
theorem dlyMoves (h : s.Inv) (hm : s.mode = .dly) (hr : 2 ≤ s.rem) :
    ({ s with rem := s.rem - 1, done := s.done || decide (s.rem = 2) } : State).Inv :=
  { h with
    seq := by
      have h1 : 1 ≤ s.rem - 1 := by omega
      simp [State.seqOk, hm, h1]
    done_of_busy := fun hb => by
      have hd : s.done = false := h.done_of_busy (by simp [State.busy, hm, hr])
      have h2 : 2 ≤ s.rem - 1 := by simpa [State.busy, hm] using hb
      have hne : s.rem ≠ 2 := by omega
      simp [hd, hne]
    stop_sent := fun e => by simp [h.stop_sent e] }

/-- The phases left at this phase follow the transition table. -/
theorem phasesFit_cons (h : s.Inv) (hm : s.mode = .i2c) {q : Phase} (hq : s.pl[s.pidx]? = some q) :
    PhasesFit s.i2cState (q :: s.pl.drop (s.pidx + 1)) s.xact := by
  obtain ⟨hlt, rfl⟩ := List.getElem?_eq_some_iff.mp hq
  rw [← List.drop_eq_getElem_cons hlt]
  exact h.on_graph hm

/-- A phase that is not the last completes. -/
theorem i2cPhase (h : s.Inv) (hm : s.mode = .i2c) {q : Phase} (hq : s.pl[s.pidx]? = some q)
    (hl : s.pidx + 1 ≠ s.pl.length) : ({ s.applyPhase q with pidx := s.pidx + 1 } : State).Inv := by
  obtain ⟨hlt, -⟩ := List.getElem?_eq_some_iff.mp hq
  have hlt' : s.pidx + 1 < s.pl.length := by omega
  have hfit : PhasesFit (q.nextState s.i2cState) (s.pl.drop (s.pidx + 1)) s.xact := (h.phasesFit_cons hm hq).tail
  exact { h with
    seq := by simp [State.seqOk, hm, hlt']
    index := ⟨hlt'.le, h.index.2⟩
    done_of_busy := fun _ => h.done_of_busy (by simp [State.busy, hm])
    disabled := fun he => absurd hm (h.disabled he).2
    transaction := fun _ => hm
    stop_sent := by
      rw [List.drop_eq_getElem_cons hlt'] at hfit
      exact fun e => absurd e hfit.ne_stopSent
    data_received := fun _ => hm
    on_graph := fun _ => hfit
    regs := TouchController.hear_wf _ _ h.regs }

/-- The last phase completes, and with it the command: the state it ends in is one that may be held between commands. -/
theorem i2cLast (h : s.Inv) (hm : s.mode = .i2c) {q : Phase} (hq : s.pl[s.pidx]? = some q)
    (hl : s.pidx + 1 = s.pl.length) :
    (({ s.applyPhase q with pidx := s.pidx + 1 } : State).finishI2c).Inv := by
  have hfit := (h.phasesFit_cons hm hq).tail
  rw [hl, List.drop_length] at hfit
  obtain ⟨hne, -⟩ := hfit.at_end
  exact { h with
    seq := rfl
    index := ⟨hl.le, h.index.2⟩
    done_of_busy := nofun
    disabled := fun he => absurd hm (h.disabled he).2
    transaction := nofun
    stop_sent := fun _ => rfl
    data_received := by
      rw [State.finishI2c_i2cState]
      split
      · nofun
      · exact fun e => absurd e hne
    on_graph := nofun
    regs := TouchController.hear_wf _ _ h.regs }

/-- One cycle of the active command keeps the invariant. -/
theorem advance {u : State} (h : s.Inv) (hu : AdvanceResult s u) : u.Inv := by
  cases hu with
  | ended hb =>
    obtain ⟨hx, hst⟩ := h.not_i2c (not_busy_mode hb)
    exact { h with
      seq := rfl, done_of_busy := nofun, disabled := fun he => ⟨(h.disabled he).1, nofun⟩
      transaction := fun e => by rw [hx] at e; cases e
      data_received := fun e => absurd e hst
      on_graph := nofun }
  | ledCycle hm hf hp =>
    obtain ⟨h1, h24⟩ := h.led_bits hm
    exact h.ledMoves hm hf s.sr (Nat.add_lt_of_lt_sub hp) h1 h24
  | ledBit hm hf hp =>
    obtain ⟨h1, h24⟩ := h.led_bits hm
    have hlast : s.bl ≠ 1 := by
      have hph := h.phase
      have hend : s.ph = bitPeriod - 1 := by omega
      simpa [State.final, hm, hend] using hf
    exact h.ledMoves hm hf _ (by decide) (by omega) (by omega)
  | dlyCycle hm hr => exact h.dlyMoves hm hr
  | i2cWaits => exact h
  | i2cPhase q hm he hq hl => exact h.i2cPhase hm hq hl
  | i2cLast q hm he hq hl => exact h.i2cLast hm hq hl

/-- The end of a cycle keeps the invariant: the chain samples DOUT, and nothing else of the block's state or of the device's
changes. -/
theorem endCycle {u : State} (h : s.Inv) (hu : u.Inv) : (endCycle s u).Inv :=
  { hu with
    pulse_open := State.chainNext_pulse_open latchCycles_pos h.pulse_open
    pending_open := State.chainNext_pending_open h.pending_open
    cells := s.chainNext_cells.trans h.cells }

/-- ResetState with the chain and the device as they were. -/
theorem resetBlock (h : s.Inv) : s.resetBlock.Inv :=
  { invariantAtReset with
    pulse_open := s.resetBlock_chain ▸ h.pulse_open
    pending_open := s.resetBlock_chain ▸ h.pending_open
    regs := by
      rw [State.resetBlock_device]
      split
      · exact TouchController.hear_wf _ _ h.regs
      · exact h.regs
    cells := s.resetBlock_chain ▸ h.cells }

end State.Inv

/-- Settles O29: a reset gives ResetState; any other step is an advance, an access and the end of the cycle, each of which keeps
the invariant. -/
theorem invariantKeptByEveryStep : Obligations.InvariantKeptByEveryStep := by
  intro s t h hstep
  cases hr : s.resetting with
  | true =>
    rw [step_reset hr] at hstep
    cases hstep
    exact h.endCycle h.resetBlock
  | false =>
    obtain ⟨hs, u, hu, rfl⟩ := step_not_resetting hstep hr
    exact h.endCycle ((h.advance (advance_result hs)).access (advance_mode_of_not_busy hs) hu)

end Sys2Proof.Machine
end

section
/-! The statements about reset, the host registers, the error record, NACK, RXDATA and the CMD write (10_state). -/
namespace Sys2Proof.Machine

/-! ## Reset (10_state R46 step 0, R54) -/

/-- The touch controller keeps its registers when the bus is abandoned (70_reset_and_hazards R191). -/
theorem TouchController.reg_hear_x (d : TouchController) (take : Bool) (r : Byte) :
    (d.hear .x take).reg r = d.reg r := rfl

/-- Settles O7: the edge is `resetBlock`, whose fields are those of ResetState. -/
theorem resetLoadsResetState : Obligations.ResetLoadsResetState := by
  intro s h
  refine ⟨_, step_reset ((resetting_iff s).mpr h), ?_⟩
  simp [State.dout, State.doutWith, State.busLines, State.ownsBus, State.busy]

/-- Settles O8: `abandons` is the condition under which `resetBlock` appends X. -/
theorem resetAbandonsTheBus : Obligations.ResetAbandonsTheBus := by
  intro s h
  refine ⟨_, step_reset ((resetting_iff s).mpr h), fun r => ?_, fun hx => ?_, fun hm hst => ?_⟩
  · rw [endCycle_device, State.resetBlock_device]
    split
    · exact TouchController.reg_hear_x _ _ _
    · rfl
  · have ha : s.abandons = true := by simpa [State.abandons, midTransaction_iff] using hx
    simp [ha]
  · have ha : s.abandons = false := by
      rcases hst with hst | hst <;> simp [State.abandons, hm, hst, I2cState.midTransaction]
    simp [ha]

/-! ## Accesses of the host port -/

/-- Settles O10: the edge of a read is the advance alone, and so is the edge with no access, since the advance does not look at
the host's script. -/
theorem readsHaveNoSideEffect : Obligations.ReadsHaveNoSideEffect := by
  intro s k hr hp
  refine ⟨?_, fun u hu hs => ⟨?_, ?_⟩⟩
  · have hport : s.access.port = .read k := hp
    simp [State.hrdata, hport]
  · rw [blockEdge_of_seqOk (not_resetting_of_read hr hp) (by simp [hp]) hs, hp, accessEffect_read]
  · have hnone : u.port = .none := by rw [hu]; rfl
    have hrst : u.resetting = false := by rw [hu]; rfl
    have hseq : u.seqOk = true := by rw [hu]; exact hs
    rw [blockEdge_of_seqOk hrst (by simp [hnone]) hseq, hnone, hu]
    exact congrArg _ (advance_with_hostQ _ hs)

/-- Settles O13: the cases of `writeCtrl`, on the advance of a state that keeps its I2C_STATE, trace and device when not busy. -/
theorem ctrlWriteConfigures : Obligations.CtrlWriteConfigures := by
  intro s v hr hp hv hs
  rw [blockEdge_of_seqOk (not_resetting_of_write hr hp (.inr hv)) (by simp [hp]) hs, hp, accessEffect_ctrl]
  refine ⟨fun hb => ?_, fun hb h0 => ?_, fun hb h0 hst => ?_, fun hb h0 hi hss => ?_⟩
  · rw [writeCtrl_busy _ _ hb]
  · rw [writeCtrl_enable _ hb h0]
  · have hm : s.advance.i2cState.midTransaction = false := by
      rw [advance_i2cState_of_not_busy hs hb]
      rcases hst with e | e <;> rw [e] <;> rfl
    rw [writeCtrl_disable hb h0 hm]
  · have hm : s.advance.i2cState.midTransaction = true := by
      rw [advance_i2cState_of_not_busy hs hb]
      exact (midTransaction_iff _).mpr ⟨hi, hss⟩
    refine ⟨s.device.hear .x s.env.take, TouchController.reg_hear_x _ _, ?_⟩
    rw [writeCtrl_abandon hb h0 hm, advance_of_not_busy hs hb]
    rfl

/-- Settles O14: the cases of `writeStatus`. -/
theorem statusWriteClearsDone : Obligations.StatusWriteClearsDone := by
  intro s v hr hp hs
  rw [blockEdge_of_seqOk (not_resetting_of_write hr hp (.inl (by decide))) (by simp [hp]) hs, hp, accessEffect_status]
  refine ⟨fun hv => ?_, fun _ hd hd0 => ?_, fun hv hset => ?_⟩
  · rw [writeStatus_ignored _ _ hv]
  · rw [writeStatus_set_wins _ ⟨hd, hd0⟩]
  · rw [writeStatus_clears hv hset]
    refine ⟨_, rfl, rfl, fun hst => ?_, fun hst => ?_⟩
    · rw [State.clearDone_i2cState, hst]; rfl
    · exact afterClear_of_ne_stopSent hst

/-- Settles O15: the cases of `writeBitrate`. -/
theorem bitrateWrite : Obligations.BitrateWrite := by
  intro s v hr hp hs
  rw [blockEdge_of_seqOk (not_resetting_of_write hr hp (.inl (by decide))) (by simp [hp]) hs, hp, accessEffect_bitrate]
  refine ⟨fun hb => ?_, fun hb => ?_⟩
  · rw [writeBitrate_busy _ _ hb]
  · rw [writeBitrate_ready _ _ hb, BitVec.setWidth_eq_extractLsb' (by decide)]

/-! ## The error record, NACK and RXDATA (10_state R33, R34, R38) -/

theorem raise_of_clear {s : State} (code : ErrCode) (h : s.err = false) :
    s.raise code = { s with err := true, errCode := code } := by
  simp [State.raise, h]

theorem raise_of_set {s : State} (code : ErrCode) (h : s.err = true) : s.raise code = s := by
  cases s
  simp_all [State.raise]

@[simp] theorem startOf_err (i : Instr) (s : State) : (startOf i s).err = s.err := by cases i <;> rfl
@[simp] theorem startOf_errCode (i : Instr) (s : State) : (startOf i s).errCode = s.errCode := by cases i <;> rfl
@[simp] theorem startOf_rxdata (i : Instr) (s : State) : (startOf i s).rxdata = s.rxdata := by cases i <;> rfl

/-- No access changes a recorded error. -/
theorem AccessResult.keeps_error {now s u : State} {p : PortAccess} (h : AccessResult now s p u) (he : s.err = true) :
    u.err = true ∧ u.errCode = s.errCode := by
  cases h with
  | unchanged | cleared | bitrate | enabled | disabled | abandoned => exact ⟨he, rfl⟩
  | overrun | rejected | started => simp [he]

/-- No access changes RXDATA. -/
theorem AccessResult.keeps_rxdata {now s u : State} {p : PortAccess} (h : AccessResult now s p u) :
    u.rxdata = s.rxdata := by
  cases h with
  | started => simp
  | _ => rfl

/-- The Start of a command changes NACK only for an I2C command, to 0 (10_state R34). -/
theorem startOf_nack (i : Instr) (s : State) :
    (startOf i s).nack = s.nack ∨ (i.family = .i2c ∧ (startOf i s).nack = false ∧ (startOf i s).mode = .i2c) := by
  cases i with
  | emit0 | emit1 | wcolor | dlys | dlyl | dlyn => exact .inl rfl
  | i2cStart | i2cRestart | i2cStop | i2cTx | i2cRxn | i2cWreg | i2cRreg => exact .inr ⟨rfl, rfl, rfl⟩

/-- An access changes NACK only where it is accepted as an I2C command. -/
theorem AccessResult.nack_cases {now s u : State} {p : PortAccess} (h : AccessResult now s p u) :
    u.nack = s.nack ∨ (u.nack = false ∧ u.mode = .i2c ∧ now.busy = false ∧
      ∃ w i, p = .write 2 w ∧ decode w = .command i ∧ i.family = .i2c) := by
  cases h with
  | started w i hb hd hg =>
    rcases startOf_nack i s.clearDone with hn | ⟨hf, hn, hm⟩
    · exact .inl hn
    · exact .inr ⟨hn, hm, hb, w, i, rfl, hd, hf⟩
  | _ => exact .inl rfl

/-- Settles O16: neither the advance nor any access changes a recorded error. -/
theorem firstErrorIsKept : Obligations.FirstErrorIsKept := by
  refine ⟨fun s code => ⟨raise_of_clear code, raise_of_set code⟩, fun s t h hr he => ?_⟩
  obtain ⟨hs, u, hu, rfl⟩ := step_not_resetting h hr
  obtain ⟨ha, hc⟩ := (advance_result hs).keeps_error
  obtain ⟨hue, huc⟩ := hu.keeps_error (ha.trans he)
  exact ⟨hue, huc.trans hc⟩

/-- Settles O45: a change of NACK is the access's, an acceptance, or else the advance's, a TX phase that completes. -/
theorem nackChangesOnlyAsRuled : Obligations.NackChangesOnlyAsRuled := by
  intro s t h hr hne
  obtain ⟨hs, u, hu, rfl⟩ := step_not_resetting h hr
  simp only [endCycle_nack, endCycle_mode] at hne ⊢
  rcases hu.nack_cases with hkeep | haccepted
  · rw [hkeep] at hne ⊢
    rcases (advance_result hs).nack_rxdata with ⟨hn, _⟩ | ⟨q, hm, he, hq, hn, _⟩
    · exact absurd hn hne
    · rw [hn] at hne ⊢
      obtain ⟨⟨b, rfl⟩, hor⟩ := nextNack_cases hne
      exact .inr ⟨hm, he, ⟨b, hq⟩, hor⟩
  · exact .inl haccepted

/-- Settles O46: no access changes RXDATA, and the advance does so only where an RXB phase completes. -/
theorem rxdataChangesOnlyAtRxb : Obligations.RxdataChangesOnlyAtRxb := by
  intro s t h hr hne
  obtain ⟨hs, u, hu, rfl⟩ := step_not_resetting h hr
  simp only [endCycle_rxdata, hu.keeps_rxdata] at hne ⊢
  rcases (advance_result hs).nack_rxdata with ⟨_, hx⟩ | ⟨q, hm, he, hq, _, hx⟩
  · exact absurd hx hne
  · rw [hx] at hne ⊢
    obtain ⟨rfl, hrx⟩ := nextRxdata_cases hne
    exact ⟨hm, he, hq, hrx⟩

/-! ## The cycle of a CMD write (10_state R37, R49) -/

/-- The current statement of a host program that writes is a `W`. -/
theorem program_of_write {prog : List HostStmt} {k : BitVec 3} {v : Word}
    (h : (programAccess prog).port = .write k v) : ∃ reg x rest, prog = .w reg x :: rest := by
  cases prog with
  | nil => cases h
  | cons stmt rest =>
    cases stmt with
    | w reg x => exact ⟨reg, x, rest, rfl⟩
    | r reg x => cases reg <;> cases h
    | waitDone => cases h
    | waitIdle => cases h

/-- The end of a cycle in which the host writes and the block is not reset. -/
theorem endCycle_of_write {s : State} {k : BitVec 3} {v : Word} (hr : s.resetting = false) (hp : s.port = .write k v)
    (t : State) :
    endCycle s t = { t with
      hostQ := s.hostQ.tail, prog := if s.pins.act = .program then s.prog.tail else s.prog, vars := s.vars
      envQ := s.envQ.tail, chain := s.chain.sample Config.params s.dout (s.tick + 1), tick := s.tick + 1 } := by
  rw [← State.chainNext_of_not_resetting hr]
  by_cases ha : s.pins.act = .program
  · have hprog : (programAccess s.prog).port = .write k v := by
      simpa [State.port, State.access, ha] using hp
    obtain ⟨reg, x, rest, he⟩ := program_of_write hprog
    simp [endCycle, State.hostMoves, ha, he, programNext, varsNext]
  · simp [endCycle, State.hostMoves, ha]

theorem step_command {s : State} {w : Word} {i : Instr} (hr : s.pins.rst = false) (hp : s.port = .write 2 w)
    (hd : decode w = .command i) : step s = withEndCycle s (exec i s) := by
  have hn := not_resetting_of_write hr hp (.inl (by decide))
  rw [step_eq hn (by simp [hp]), exec_eq_onEdge, hp]
  congr 2
  funext s1
  exact accessEffect_command s s1 w hd

/-- Settles O26: a CMD write runs the decoded command, and what the end of the cycle adds is `endCycle_of_write`. -/
theorem stepRunsTheDecodedCommand : Obligations.StepRunsTheDecodedCommand := by
  intro s w i hr hp hd
  refine ⟨step_command hr hp hd, fun t ht => ?_⟩
  rw [step_command hr hp hd, ht, withEndCycle, endCycle_of_write (not_resetting_of_write hr hp (.inl (by decide))) hp]

/-! ## The word of a command decodes to it (30_encoding R79, R92) -/

/-- An operand field lies in bits 23:0 of the word. -/
theorem packWord_field (op : BitVec 4) (fields : BitVec 24) {start len : Nat} (h : start + len ≤ 24) :
    (packWord op fields).extractLsb' start len = fields.extractLsb' start len := by
  unfold packWord
  rw [BitVec.extractLsb'_append_eq_of_add_le h]

section
open Laws (packWord_opcode packWord_reserved)

/-- Every command decodes from its word: the opcode selects its row, the reserved bits are zero, and each operand field comes
back. -/
theorem decode_encode (i : Instr) : decode (encode i) = .command i := by
  cases i with
  | emit0 | emit1 | dlys | dlyl | i2cStart | i2cRestart | i2cStop | i2cRxn => rfl
  | wcolor | dlyn | i2cTx | i2cWreg | i2cRreg =>
    simp (disch := decide) only [encode, decode, packWord_opcode, packWord_reserved, packWord_field, Nat.reduceSub,
      BitVec.extractLsb'_append_eq_of_le, BitVec.extractLsb'_append_eq_of_add_le, BitVec.extractLsb'_eq_self,
      ne_eq, not_true_eq_false, if_false]
    rfl

end

theorem fetchWord_toNat (w : Word) : fetchWord 32 w.toNat = w := by
  rw [fetchWord, Nat.mod_eq_of_lt w.isLt, BitVec.ofNat_toNat, BitVec.setWidth_eq]

/-- The access of a cycle that presents a word is the CMD write of it, with RST = 0. -/
theorem presentWord_access (s : State) (w : Word) :
    (s.presentWord w).pins.rst = false ∧ (s.presentWord w).port = .write 2 w := ⟨rfl, rfl⟩

/-- Settles O27: the presented word is the command's own, and it decodes to the command. -/
theorem presentedWordRuns : Obligations.PresentedWordRuns := by
  intro s i
  rw [State.withFetchWord, fetchWord_toNat]
  obtain ⟨hr, hp⟩ := presentWord_access s (encode i)
  exact step_command hr hp (decode_encode i)

/-! ## The cycle after a final cycle (10_state R50) -/

/-- Settles O35: a final cycle is not busy, so the advance gives MODE IDLE and keeps DONE; of the accesses left only a STATUS write
touches either. -/
theorem idleAfterTheFinalCycle : Obligations.IdleAfterTheFinalCycle := by
  intro s t hf hs hr hcmd h
  obtain ⟨-, u, hu, rfl⟩ := step_not_resetting h hr
  have hb : s.busy = false := not_busy_of_final hf
  have hm : s.advance.mode = .idle := advance_mode_of_not_busy hs hb
  have hd : s.advance.done = s.done := advance_done_of_not_busy hs hb
  simp only [endCycle_mode, endCycle_done]
  generalize s.port = p at hu hcmd
  cases hu with
  | unchanged _ hp =>
    refine ⟨hm, hd.trans ?_⟩
    cases p with
    | write k v =>
      have hkv : (k == 1 && v.getLsbD 1) = false := by
        by_contra hc
        obtain ⟨rfl, hv⟩ : k = 1 ∧ v.getLsbD 1 = true := by simpa using hc
        obtain ⟨hset, hclear⟩ := hp v rfl hv
        simp [hd, hclear] at hset
      show s.done = (s.done && !(k == 1 && v.getLsbD 1))
      rw [hkv, Bool.not_false, Bool.and_true]
    | _ => simp
  | overrun _ hb' => rw [hb] at hb'; cases hb'
  | cleared v hv => exact ⟨hm, by simp [hv]⟩
  | bitrate v | enabled v | disabled v | abandoned v => exact ⟨hm, by simp [hd]⟩
  | rejected w | started w => exact absurd rfl (hcmd w)

end Sys2Proof.Machine
end

section
/-! The host port (20_memory): what a read returns at each word offset, which accesses the block refuses, and what the reserved
offsets and bits do. -/
namespace Sys2Proof.Machine

/-! ## The registers of the window (20_memory R63) -/

theorem regValue_ctrl (s : State) : s.regValue 0 = if s.i2cEn then 1 else 0 := by
  rw [State.regValue]
  cases s.i2cEn <;> rfl

theorem regValue_rxdata_toNat (s : State) : (s.regValue 3).toNat = s.rxdata.toNat :=
  BitVec.toNat_setWidth_of_le (by decide)

theorem regValue_bitrate_toNat (s : State) : (s.regValue 4).toNat = s.bitrate.toNat :=
  BitVec.toNat_setWidth_of_le (by decide)

/-- The offsets 0x14 to 0x1C, by word index (20_memory R65). -/
theorem reservedIndex_cases {k : BitVec 3} (h : 5 ≤ k.toNat) : k = 5 ∨ k = 6 ∨ k = 7 := by
  revert k; decide

theorem regValue_reserved (s : State) {k : BitVec 3} (h : 5 ≤ k.toNat) : s.regValue k = 0 := by
  rcases reservedIndex_cases h with rfl | rfl | rfl <;> rfl

/-- A flag at bit n of a word. -/
theorem setWidth_ofBool_shiftLeft (b : Bool) (n : Nat) :
    (BitVec.ofBool b).setWidth 32 <<< n = if b then (1 : Word) <<< n else 0 := by
  cases b with
  | false => exact BitVec.zero_shiftLeft n
  | true => rfl

/-- The STATUS word as the union of its fields, each at its place (10_state R30). -/
theorem statusWord_eq_or (s : State) :
    s.statusWord = (s.i2cState.code.setWidth 32 <<< 8) ||| (s.errCode.code.setWidth 32 <<< 4) |||
      (if s.nack then 8 else 0) ||| (if s.err then 4 else 0) ||| (if s.done then 2 else 0) ||| (if s.busy then 1 else 0) := by
  have hbusy := setWidth_ofBool_shiftLeft s.busy 0
  rw [BitVec.shiftLeft_zero] at hbusy
  rw [← BitVec.setWidth_eq s.statusWord, State.statusWord]
  simp only [BitVec.setWidth_append_eq_shiftLeft_setWidth_or, BitVec.shiftLeft_or_distrib, ← BitVec.shiftLeft_add]
  simp [setWidth_ofBool_shiftLeft, hbusy]

/-- Fields appended below a value only shift its bound. -/
theorem append_toNat_lt {n m k : Nat} {x : BitVec n} (y : BitVec m) (h : x.toNat < 2 ^ k) :
    (x ++ y).toNat < 2 ^ (k + m) := by
  rw [BitVec.toNat_append]
  have hy : y.toNat < 2 ^ (k + m) := y.isLt.trans_le (Nat.pow_le_pow_right Nat.two_pos (Nat.le_add_left m k))
  exact Nat.or_lt_two_pow (Nat.shiftLeft_lt h) hy

/-- Bits 31:12 of STATUS are reserved (10_state R30). -/
theorem statusWord_lt (s : State) : s.statusWord.toNat < 2 ^ 12 := by
  have hzero : (0 : BitVec 20).toNat < 2 ^ 0 := by decide
  exact append_toNat_lt _ <| append_toNat_lt _ <| append_toNat_lt _ <| append_toNat_lt _ <| append_toNat_lt _ <|
    append_toNat_lt _ <| append_toNat_lt _ hzero

/-- Bit 7 of STATUS is reserved (10_state R30). -/
theorem statusWord_bit7 (s : State) : s.statusWord.getLsbD 7 = false := by
  simp only [State.statusWord, BitVec.getLsbD_append]
  rfl

/-! ## Reads (20_memory R63) -/

theorem hrdata_of_read {s : State} {k : BitVec 3} (hp : s.port = .read k) : s.hrdata = some (s.regValue k) := by
  have hport : s.access.port = .read k := hp
  rw [State.hrdata, hport]

/-- Settles O9: the values are those of `regValue`, with STATUS as the union of its fields, and that the edge of a read is the
advance alone is part of O10. -/
theorem readReturnsRegisterValue : Obligations.ReadReturnsRegisterValue := by
  refine ⟨fun s k hp => hrdata_of_read hp, fun s k hr hp hs => ?_, fun s => ?_⟩
  · exact ((readsHaveNoSideEffect s k hr hp).2 _ rfl hs).1
  · exact ⟨regValue_ctrl s, statusWord_eq_or s, rfl, regValue_rxdata_toNat s, regValue_bitrate_toNat s, rfl, rfl, rfl⟩

/-! ## Accesses the block does not define (20_memory R66) -/

theorem isWordAccess_iff (off : BitVec 5) (size : AccessSize) :
    isWordAccess off size = true ↔ size = .word ∧ off.toNat % 4 = 0 := by
  have halign : off.extractLsb' 0 2 = 0#2 ↔ off.toNat % 4 = 0 := by
    simp [← BitVec.toNat_inj]
  simp [isWordAccess, halign]

/-- The port takes an access that is narrow or misaligned as one the block does not define. -/
theorem port_of_narrow {s : State} {off : BitVec 5} {size : AccessSize} {v : Word}
    (ha : s.access = .read off size ∨ s.access = .write off size v) (hn : size ≠ .word ∨ off.toNat % 4 ≠ 0) :
    s.port = .narrow := by
  have hw : ¬ isWordAccess off size = true := by
    rw [isWordAccess_iff]
    exact fun ⟨hsize, halign⟩ => hn.elim (absurd hsize) (absurd halign)
  rcases ha with ha | ha <;> rw [State.port, ha, HostAccess.port, if_neg hw]

/-- Without RST, an access the block does not define does not reset it. -/
theorem not_resetting_of_narrow {s : State} (hr : s.pins.rst = false) (hp : s.port = .narrow) : s.resetting = false := by
  simp [State.resetting, hr, hp]

/-- Settles O11: the port sees the access as narrow, and RST = 0 leaves the edge nothing else to do but refuse it. -/
theorem narrowAccessRefused : Obligations.NarrowAccessRefused := by
  intro s off size v hr ha hn
  have hp := port_of_narrow ha hn
  exact step_narrow (not_resetting_of_narrow hr hp) hp

/-! ## Reserved offsets and bits (20_memory R65) -/

/-- Writes to RXDATA and to the reserved offsets are ignored. -/
theorem accessEffect_ignored (now s : State) {k : BitVec 3} (v : Word) (hk : k = 3 ∨ 5 ≤ k.toNat) :
    accessEffect now (.write k v) s = s := by
  rcases hk with rfl | hk
  · rfl
  · rcases reservedIndex_cases hk with rfl | rfl | rfl <;> rfl

section
variable (s : State) (v : Word)

theorem writeWord_ctrl : writeWord 0 v s = onEdge s (writeCtrl v s) := rfl
theorem writeWord_status : writeWord 1 v s = onEdge s (writeStatus v s) := rfl
theorem writeWord_bitrate : writeWord 4 v s = onEdge s (writeBitrate v s) := rfl

end

/-- A CTRL write that is no soft reset depends on bit 0 of the value alone (10_state R28). -/
theorem writeCtrl_congr {v v' : Word} (h : v.getLsbD 0 = v'.getLsbD 0) : writeCtrl v = writeCtrl v' := by
  funext now s
  rw [writeCtrl, writeCtrl, h]

/-- A STATUS write depends on bit 1 of the value alone (10_state R36). -/
theorem writeStatus_congr {v v' : Word} (h : v.getLsbD 1 = v'.getLsbD 1) : writeStatus v = writeStatus v' := by
  funext now s
  rw [writeStatus, writeStatus, h]

/-- A BITRATE write depends on bits 15:0 of the value alone (10_state R39). -/
theorem writeBitrate_congr {v v' : Word} (h : v.setWidth 16 = v'.setWidth 16) : writeBitrate v = writeBitrate v' := by
  have hfield : v.extractLsb' 0 16 = v'.extractLsb' 0 16 := by
    rwa [BitVec.setWidth_eq_extractLsb' (by decide), BitVec.setWidth_eq_extractLsb' (by decide)] at h
  funext now s
  rw [writeBitrate, writeBitrate, hfield]

/-- Settles O12: the read values have the widths of their registers' fields, and each write depends on its register's fields
alone. -/
theorem reservedBitsAndOffsets : Obligations.ReservedBitsAndOffsets := by
  refine ⟨fun s => ?_, fun s k v hk hs => ?_, fun s v v' h => ?_, fun s v v' h => ?_, fun s v v' h => ?_⟩
  · have hctrl : (s.regValue 0).toNat < 2 := by
      rw [regValue_ctrl]
      cases s.i2cEn <;> decide
    have hrxdata : (s.regValue 3).toNat < 2 ^ 8 := by
      rw [regValue_rxdata_toNat]
      exact s.rxdata.isLt
    have hbitrate : (s.regValue 4).toNat < 2 ^ 16 := by
      rw [regValue_bitrate_toNat]
      exact s.bitrate.isLt
    exact ⟨fun k => regValue_reserved s, hctrl, statusWord_bit7 s, statusWord_lt s, hrxdata, hbitrate⟩
  · rw [writeWord_eq_onEdge, onEdge_of_seqOk _ hs, accessEffect_ignored _ _ _ hk]
  · rw [writeWord_ctrl, writeWord_ctrl, writeCtrl_congr h]
  · rw [writeWord_status, writeWord_status, writeStatus_congr h]
  · rw [writeWord_bitrate, writeWord_bitrate, writeBitrate_congr h]

end Sys2Proof.Machine
end

section
/-! The encoding of commands (30_encoding): a word decodes to a command exactly where it is the command's word, and exactly
where it matches the command's row of the opcode table. -/
namespace Sys2Proof.Machine
open Laws (opcodeOf)

/-! ## A word and its fields (30_encoding R79) -/

section
open BitVec renaming extractLsb'_append_extractLsb'_eq_extractLsb' → join

/-- A word with zero in bits 27:24 is packed from its opcode and its operand fields. -/
theorem packWord_eq_of_fields {w : Word} {op : BitVec 4} {fields : BitVec 24} (hop : w.extractLsb' 28 4 = op)
    (hz : w.extractLsb' 24 4 = 0) (hf : w.extractLsb' 0 24 = fields) : packWord op fields = w := by
  rw [packWord, ← hop, ← hz, ← hf]
  simp (disch := decide) only [join]
  exact BitVec.extractLsb'_eq_self

theorem requireZero_eq_command {n : Nat} {i j : Instr} : requireZero n i = .command j ↔ n = 0 ∧ i = j := by
  unfold requireZero
  split
  · next h => simp [h]
  · next h => simp [h]

/-- A format with one reserved field. -/
theorem requireZero_toNat_eq_command {n : Nat} {r : BitVec n} {i j : Instr} :
    requireZero r.toNat i = .command j ↔ r = 0 ∧ i = j := by
  rw [requireZero_eq_command, ← BitVec.toNat_inj]
  rfl

/-- Each format puts every field back where the decoder took it from, and zero where the decoder asked for zero
(30_encoding R80 to R85, R93). -/
theorem encode_of_decode {w : Word} {i : Instr} (h : decode w = .command i) : encode i = w := by
  unfold decode at h
  split at h
  · cases h
  next hz =>
  replace hz : w.extractLsb' 24 4 = 0 := not_not.mp hz
  have pack : ∀ {op : BitVec 4} {fields : BitVec 24}, (w.extractLsb' 28 4).toNat = op.toNat →
      w.extractLsb' 0 24 = fields → packWord op fields = w :=
    fun hop => packWord_eq_of_fields (BitVec.eq_of_toNat_eq hop) hz
  split at h
  -- format N
  case h_1 hop | h_2 hop | h_4 hop | h_5 hop | h_7 hop | h_8 hop | h_9 hop | h_11 hop =>
    obtain ⟨hr, rfl⟩ := requireZero_toNat_eq_command.mp h
    exact pack hop hr
  -- format P
  case h_3 hop =>
    cases h
    exact pack hop (by simp (disch := decide) only [join])
  -- formats D, B and W
  case h_6 hop | h_10 hop | h_12 hop =>
    obtain ⟨hr, rfl⟩ := requireZero_toNat_eq_command.mp h
    exact pack hop (by rw [← hr]; simp (disch := decide) only [join])
  -- format Q
  case h_13 hop =>
    obtain ⟨hr, rfl⟩ := requireZero_eq_command.mp h
    obtain ⟨hr23, hr0⟩ : w.extractLsb' 23 1 = 0 ∧ w.extractLsb' 0 8 = 0 := by
      simpa [BitVec.toNat_eq] using hr
    exact pack hop (by rw [← hr23, ← hr0]; simp (disch := decide) only [join])
  -- a reserved opcode
  case h_14 => cases h

end

theorem decode_eq_command_iff {w : Word} {i : Instr} : decode w = .command i ↔ encode i = w :=
  ⟨encode_of_decode, fun h => h ▸ decode_encode i⟩

/-- Settles O2: for each format, the decoder takes every operand from where the encoder put it. -/
theorem decodeOfEncode : Obligations.DecodeOfEncode := decode_encode

/-- Settles O3: for each format, the fields the decoder reads and the bits it requires to be zero make up the word. -/
theorem encodeOfDecode : Obligations.EncodeOfDecode := fun _ _ => encode_of_decode

/-- Settles O1: the words are computed by the encoder, and each decodes to its command because every command does. -/
theorem workedEncodings : Obligations.WorkedEncodings := by
  intro p hp
  have word : encode p.1 = p.2 := by
    revert p
    decide
  exact ⟨word, decode_eq_command_iff.mpr word⟩

/-! ## The rows of the opcode table (30_encoding R92) -/

/-- The operand-field bits a mnemonic's format asks to be zero, field by field (30_encoding R80 to R85). -/
def reservedOf : Mnemonic → BitVec 24
  | .wcolor => 0
  | .dlyn => BitVec.allOnes 8 ++ (0 : BitVec 16)
  | .i2cTx => BitVec.allOnes 16 ++ (0 : BitVec 8)
  | .i2cWreg => BitVec.allOnes 1 ++ (0 : BitVec 7) ++ (0 : BitVec 8) ++ (0 : BitVec 8)
  | .i2cRreg => BitVec.allOnes 1 ++ (0 : BitVec 7) ++ (0 : BitVec 8) ++ BitVec.allOnes 8
  | .emit0 | .emit1 | .dlys | .dlyl | .i2cStart | .i2cRestart | .i2cStop | .i2cRxn => BitVec.allOnes 24

/-- The row that the formats give a mnemonic: its opcode, and zero in every reserved bit. -/
def rowOf (m : Mnemonic) : OpcodeRow where
  name := m
  pattern := packWord (opcodeOf m) 0
  mask := BitVec.allOnes 8 ++ reservedOf m

/-- The opcode table holds these rows. -/
theorem eq_rowOf_of_mem {row : OpcodeRow} (h : row ∈ opcodeTable) : row = rowOf row.name := by
  revert row
  decide

section
open BitVec (and_zero zero_and)

/-- A packed word whose reserved bits are zero is its opcode under the mask. -/
theorem packWord_matches (op : BitVec 4) {fields reserved : BitVec 24} (h : fields &&& reserved = 0) :
    packWord op fields &&& (BitVec.allOnes 8 ++ reserved) = packWord op 0 := by
  rw [packWord, BitVec.and_append, BitVec.and_allOnes, h, packWord]

/-- Two fields of a format, each with its reserved bits zero. -/
theorem append_and_append {n k : Nat} {x mx : BitVec n} {y my : BitVec k} (hx : x &&& mx = 0#n) (hy : y &&& my = 0#k) :
    (x ++ y) &&& (mx ++ my) = 0#(n + k) := by
  rw [BitVec.and_append, hx, hy, BitVec.zero_append_zero]

/-- The word of a command matches its row. -/
theorem encode_matches (i : Instr) :
    encode i &&& (rowOf i.mnemonic).mask = (rowOf i.mnemonic).pattern := by
  cases i with
  | emit0 | emit1 | dlys | dlyl | i2cStart | i2cRestart | i2cStop | i2cRxn => rfl
  | wcolor r g b => exact packWord_matches _ and_zero
  | dlyn n => exact packWord_matches _ (append_and_append zero_and and_zero)
  | i2cTx b => exact packWord_matches _ (append_and_append zero_and and_zero)
  | i2cWreg a r d =>
    exact packWord_matches _
      (append_and_append (append_and_append (append_and_append zero_and and_zero) and_zero) and_zero)
  | i2cRreg a r =>
    exact packWord_matches _
      (append_and_append (append_and_append (append_and_append zero_and and_zero) and_zero) zero_and)

end

/-- Where the mask covers a field, a matching word holds the pattern's field. -/
theorem field_of_match {w mask pattern : Word} {start len : Nat} (h : w &&& mask = pattern)
    (hm : mask.extractLsb' start len = BitVec.allOnes len) :
    w.extractLsb' start len = pattern.extractLsb' start len := by
  rw [← h, BitVec.extractLsb'_and, hm, BitVec.and_allOnes]

/-- A word that matches a mnemonic's row decodes to a command of that mnemonic. -/
theorem decode_of_match {w : Word} {m : Mnemonic} (h : w &&& (rowOf m).mask = (rowOf m).pattern) :
    ∃ i, decode w = .command i ∧ i.mnemonic = m := by
  have hop : w.extractLsb' 28 4 = opcodeOf m :=
    (field_of_match h (by cases m <;> rfl)).trans (Laws.packWord_opcode _ _)
  have hz : w.extractLsb' 24 4 = 0 :=
    (field_of_match h (by cases m <;> rfl)).trans (Laws.packWord_reserved _ _)
  have reserved : ∀ {start len : Nat}, start + len ≤ 24 →
      (rowOf m).mask.extractLsb' start len = BitVec.allOnes len → w.extractLsb' start len = 0 := by
    intro start len hle hm
    rw [field_of_match h hm, rowOf, packWord_field _ _ hle]
    exact BitVec.extractLsb'_zero
  unfold decode
  rw [if_neg (not_not.mpr hz), hop]
  cases m with
  | wcolor => exact ⟨_, rfl, rfl⟩
  | i2cRreg =>
    have h1 : w.extractLsb' 23 1 = 0 := reserved (by decide) rfl
    have h8 : w.extractLsb' 0 8 = 0 := reserved (by decide) rfl
    exact ⟨_, requireZero_eq_command.mpr ⟨by rw [h1, h8]; rfl, rfl⟩, rfl⟩
  | emit0 | emit1 | dlys | dlyl | dlyn | i2cStart | i2cRestart | i2cStop | i2cTx | i2cRxn | i2cWreg =>
    exact ⟨_, requireZero_toNat_eq_command.mpr ⟨reserved (by decide) rfl, rfl⟩, rfl⟩

theorem match_iff_decode {w : Word} {row : OpcodeRow} (hrow : row ∈ opcodeTable) :
    w &&& row.mask = row.pattern ↔ ∃ i, decode w = .command i ∧ i.mnemonic = row.name := by
  rw [eq_rowOf_of_mem hrow]
  generalize row.name = m
  refine ⟨decode_of_match, fun ⟨i, hd, hm⟩ => ?_⟩
  obtain rfl : i.mnemonic = m := hm
  rw [← encode_of_decode hd]
  exact encode_matches i

/-- Settles O4: a word that matches two rows decodes to one command, and the mnemonic of it names both. -/
theorem decodeFollowsOpcodeTable : Obligations.DecodeFollowsOpcodeTable := by
  refine ⟨fun w row => match_iff_decode, fun w row hrow row' hrow' h h' => ?_⟩
  obtain ⟨i, hd, hm⟩ := (match_iff_decode hrow).mp h
  obtain ⟨i', hd', hm'⟩ := (match_iff_decode hrow').mp h'
  have hi : i = i' := by
    rw [hd] at hd'
    exact Decoded.command.inj hd'
  rw [eq_rowOf_of_mem hrow, eq_rowOf_of_mem hrow', ← hm, ← hm', hi]

end Sys2Proof.Machine
end

section
/-! The assembler's checks (30_encoding R96), the rejection of reserved opcodes (R89) and the waits of a host program (R97). -/
namespace Sys2Proof

/-! ## The assembler (30_encoding R96) -/

theorem withinBounds_iff : ∀ xs bounds : List Nat,
    withinBounds xs bounds = true ↔ List.Forall₂ (fun x bound => x < bound) xs bounds
  | [], [] => by simp [withinBounds]
  | [], b :: bs => by simp [withinBounds]
  | x :: xs, [] => by simp [withinBounds]
  | x :: xs, b :: bs => by simp [withinBounds, withinBounds_iff xs bs]

theorem AsmLine.wellFormed_iff (l : AsmLine) :
    l.wellFormed = true ↔ List.Forall₂ (fun x bound => x < bound) l.operands l.op.bounds :=
  withinBounds_iff _ _

/-- The assembler refuses every line that is not well-formed. -/
theorem AsmLine.wellFormed_of_assemble {l : AsmLine} {i : Instr} (h : l.assemble = some i) : l.wellFormed = true := by
  by_contra hw
  rw [AsmLine.assemble, if_neg hw] at h
  cases h

section
open List (forall₂_nil_right_iff forall₂_cons_right_iff)

/-- A well-formed line has the operands of its mnemonic's format, and the command it assembles to carries them. -/
theorem AsmLine.assemble_of_wellFormed {l : AsmLine} (h : l.wellFormed = true) :
    ∃ i, l.assemble = some i ∧ i.mnemonic = l.op ∧ i.operands = l.operands := by
  rw [AsmLine.assemble, if_pos h]
  rw [AsmLine.wellFormed_iff] at h
  obtain ⟨op, operands⟩ := l
  cases op with
  | emit0 | emit1 | dlys | dlyl | i2cStart | i2cRestart | i2cStop | i2cRxn =>
    obtain rfl := forall₂_nil_right_iff.mp h
    exact ⟨_, rfl, rfl, rfl⟩
  | dlyn | i2cTx =>
    simp only [Mnemonic.bounds, forall₂_cons_right_iff, forall₂_nil_right_iff] at h
    obtain ⟨x, _, hx, rfl, rfl⟩ := h
    exact ⟨_, rfl, rfl, by simp [Instr.operands, Nat.mod_eq_of_lt hx]⟩
  | i2cRreg =>
    simp only [Mnemonic.bounds, forall₂_cons_right_iff, forall₂_nil_right_iff] at h
    obtain ⟨x, _, hx, ⟨y, _, hy, rfl, rfl⟩, rfl⟩ := h
    exact ⟨_, rfl, rfl, by simp [Instr.operands, Nat.mod_eq_of_lt hx, Nat.mod_eq_of_lt hy]⟩
  | wcolor | i2cWreg =>
    simp only [Mnemonic.bounds, forall₂_cons_right_iff, forall₂_nil_right_iff] at h
    obtain ⟨x, _, hx, ⟨y, _, hy, ⟨z, _, hz, rfl, rfl⟩, rfl⟩, rfl⟩ := h
    exact ⟨_, rfl, rfl, by
      simp [Instr.operands, Nat.mod_eq_of_lt hx, Nat.mod_eq_of_lt hy, Nat.mod_eq_of_lt hz]⟩

end

/-- Settles O6: a line that assembles is well-formed, and a well-formed line assembles to the command with its operands. -/
theorem assemblerNeverTruncates : Obligations.AssemblerNeverTruncates := by
  intro l
  rw [← l.wellFormed_iff]
  refine ⟨⟨fun ⟨_, hi⟩ => AsmLine.wellFormed_of_assemble hi, fun hw => ?_⟩, fun i hi => ?_⟩
  · obtain ⟨i, hi, -⟩ := AsmLine.assemble_of_wellFormed hw
    exact ⟨i, hi⟩
  · obtain ⟨j, hj, hop, hargs⟩ := AsmLine.assemble_of_wellFormed (AsmLine.wellFormed_of_assemble hi)
    obtain rfl : j = i := Option.some.inj (hj.symm.trans hi)
    exact ⟨hop, hargs⟩

end Sys2Proof

namespace Sys2Proof.Machine

/-! ## Reserved opcodes (30_encoding R89) -/

/-- No word with a reserved opcode decodes to a command, whatever its reserved nibble. -/
theorem decode_reservedOpcode {w : Word} (h : w.extractLsb' 28 4 ∈ [(0x0 : BitVec 4), 0x7, 0xF]) :
    ∃ why, decode w = .illegal why := by
  simp only [List.mem_cons, List.not_mem_nil, or_false] at h
  unfold decode
  split
  · exact ⟨_, rfl⟩
  · rcases h with h | h | h <;> rw [h] <;> exact ⟨_, rfl⟩

/-- At an acceptance the advance and the DONE clear leave `freed` (10_state R46 step 1, R49). -/
theorem clearDone_advance {s : State} (h : s.ready) : s.advance.clearDone = s.freed := by
  rw [advance_of_not_busy h.1 h.2]
  rfl

/-- A ready state rejects an ILLEGAL word with ILL (10_state R49). -/
theorem runWord_illegal {w : Word} {why : IllegalWord} (hd : decode w = .illegal why) {s : State} (h : s.ready) :
    runWord w s = .next (s.rejected .ill) := by
  have rejects : runWord w s = rejectWord s := by rw [runWord, hd]
  rw [rejects, rejectWord, onEdge_of_seqOk _ h.1, acceptCommand_rejected (code := .ill) _ h.2 rfl, clearDone_advance h]
  rfl

/-- Settles O5: a reserved opcode selects no row, and a ready state rejects the word as ILLEGAL. -/
theorem reservedOpcodesRejected : Obligations.ReservedOpcodesRejected := by
  intro w h
  obtain ⟨why, hd⟩ := decode_reservedOpcode h
  exact ⟨⟨why, hd⟩, fun s hs => runWord_illegal hd hs⟩

/-! ## The waits of a host program (30_encoding R97) -/

/-- Bit 0 of STATUS is BUSY (10_state R30). -/
theorem statusWord_bit0 (s : State) : s.statusWord.getLsbD 0 = s.busy := by
  simp only [State.statusWord, BitVec.getLsbD_append]
  cases s.busy <;> rfl

/-- Bit 1 of STATUS is DONE (10_state R30). -/
theorem statusWord_bit1 (s : State) : s.statusWord.getLsbD 1 = s.done := by
  simp only [State.statusWord, BitVec.getLsbD_append]
  cases s.done <;> rfl

/-- The step of a read is the advance and the end of the cycle (10_state R40). -/
theorem step_read {s : State} {k : BitVec 3} (hr : s.pins.rst = false) (hp : s.port = .read k) (hs : s.seqOk = true) :
    step s = .next (endCycle s s.advance) := by
  rw [step_of_seqOk (not_resetting_of_read hr hp) (by simp [hp]) hs, hp, accessEffect_read]

/-- Beyond the script RST is 0 and the host follows its program (log 1). -/
theorem pins_of_empty_script {s : State} (h : s.hostQ = []) : s.pins = { rst := false, act := .program } := by
  rw [State.pins, h]
  rfl

/-- A cycle in which a statement of the host program reads STATUS: the block only advances, and the program goes on with the
STATUS word. -/
theorem step_polls {s t : State} (hq : s.hostQ = []) (hs : s.seqOk = true) (h : step s = .next t)
    (hp : (programAccess s.prog).port = .read 1) :
    t.prog = programNext s.prog s.statusWord ∧ t = endCycle s s.advance := by
  have hpins := pins_of_empty_script hq
  have hport : s.port = .read 1 := by
    rw [State.port, State.access, hpins]
    exact hp
  have hread : s.hrdata = some s.statusWord := hrdata_of_read hport
  rw [step_read (by rw [hpins]) hport hs] at h
  injection h with h
  subst h
  refine ⟨?_, rfl⟩
  rw [endCycle_prog, hpins, hread]
  rfl

/-- Settles O57: each wait reads STATUS, whose bits 1 and 0 are DONE and BUSY. -/
theorem waitsPollStatus : Obligations.WaitsPollStatus := by
  intro s t rest hq hs h
  refine ⟨fun hp => ?_, fun hp => ?_⟩
  · obtain ⟨hprog, ht⟩ := step_polls hq hs h (by rw [hp]; rfl)
    refine ⟨?_, ht⟩
    rw [hprog, hp, programNext, statusWord_bit1]
  · obtain ⟨hprog, ht⟩ := step_polls hq hs h (by rw [hp]; rfl)
    refine ⟨?_, ht⟩
    rw [hprog, hp, programNext, statusWord_bit0]

end Sys2Proof.Machine
end

section
/-! The delay commands (40_cycle_delay): what each loads at its acceptance, and its timeline, cycle by cycle. -/
namespace Sys2Proof.Machine

/-! ## Acceptance from a ready state, and a property that moves along a run -/

/-- A ready state starts a command that its gate lets through (10_state R49). -/
theorem exec_of_ready {i : Instr} {s : State} (h : s.ready) (hg : gateOf i s.freed = none) :
    exec i s = .next (startOf i s.freed).started := by
  rw [← clearDone_advance h] at hg ⊢
  obtain ⟨hs, hb⟩ := h
  rw [exec_eq_onEdge, onEdge_of_seqOk _ hs, acceptCommand_started _ hb hg]

/-- The step of a presented command whose edge answers a next state. -/
theorem step_of_presents {s t : State} {i : Instr} (hp : s.presents i) (h : exec i s = .next t) :
    step s = .next (endCycle s t) := by
  obtain ⟨hr, hport⟩ := hp
  rw [step_command hr hport (decode_encode i), h, withEndCycle]

/-- A property indexed by the cycle that every step carries to the next cycle below `bound` reaches the end of the run. -/
theorem RunsWhile.carries {p : State → Bool} {P : Nat → State → Prop} {bound : Nat}
    (carry : ∀ {k : Nat} {s t : State}, k + 1 < bound → P k s → s.resetting = false → step s = .next t → P (k + 1) t) :
    ∀ {n k : Nat} {s t : State}, RunsWhile p n s t → k + n < bound → P k s → P (k + n) t
  | 0, _, _, _, h, _, hk => by cases h; exact hk
  | n + 1, k, _, _, ⟨_, hr, _, hu, h⟩, hlt, hk => by
    have hnext : k + 1 + n = k + (n + 1) := by omega
    have carried := RunsWhile.carries carry h (by omega) (carry (by omega) hk hr hu)
    rwa [hnext] at carried

/-! ## Acceptance of a delay (40_cycle_delay R104 to R107) -/

theorem delayCycles_of_ne_zero (p : Params) {n : BitVec 16} (h : n ≠ 0) :
    delayCycles p n = n.toNat * p.shortCycles :=
  if_neg h

/-- The length of the delay a timer command starts. -/
def delayLength : Instr → Option Nat
  | .dlys => some Config.params.shortCycles
  | .dlyl => some Config.params.longCycles
  | .dlyn n => some (delayCycles Config.params n)
  | _ => none

/-- A command with a delay length has the open gate, and its Start loads REM with that length. -/
theorem start_of_delayLength {i : Instr} {cycles : Nat} (h : delayLength i = some cycles) :
    gateOf i = openGate ∧ startOf i = fun s => s.startDly cycles := by
  cases i with
  | dlys | dlyl | dlyn => cases h; exact ⟨rfl, rfl⟩
  | _ => cases h

/-- The state that the acceptance of a delay leaves; DONE is set at once where the delay is one cycle long (10_state R49). -/
theorem exec_delay {i : Instr} {cycles : Nat} (h : delayLength i = some cycles) {s : State} (hs : s.ready) :
    exec i s = .next { s.freed with mode := .dly, rem := cycles, done := decide (cycles = 1) } := by
  obtain ⟨hgate, hstart⟩ := start_of_delayLength h
  rw [exec_of_ready hs (by rw [hgate]; rfl), hstart]
  rfl

/-- Settles O23: each delay starts with its length. -/
theorem delayCommandsStart : Obligations.DelayCommandsStart := by
  intro s hs
  refine ⟨exec_delay rfl hs, exec_delay rfl hs, exec_delay (cycles := 1) rfl hs, fun n hn => ?_⟩
  have hlength : delayLength (.dlyn n) = some (n.toNat * Config.params.shortCycles) :=
    congrArg some (delayCycles_of_ne_zero _ hn)
  exact exec_delay hlength hs

/-! ## The timeline of a delay (40_cycle_delay R105 to R107, 10_state R50) -/

/-- The k-th cycle, from 0, of a delay of `cycles` cycles. -/
structure State.InDelay (cycles k : Nat) (s : State) : Prop where
  mode : s.mode = .dly
  rem : s.rem = cycles - k
  done : s.done = decide (k + 1 = cycles)

/-- In a delay BUSY is 1 in all cycles but the last (10_state R31). -/
theorem State.InDelay.busy {cycles k : Nat} {s : State} (h : s.InDelay cycles k) :
    s.busy = decide (k + 1 < cycles) := by
  have hrem : 2 ≤ s.rem ↔ k + 1 < cycles := by rw [h.rem]; omega
  simp [State.busy, h.mode, hrem]

/-- A step from a cycle of a delay that is not its last leads to the next one: BUSY is 1, so that no access gets further than
the error record and DONE, and the advance counts REM down. -/
theorem State.InDelay.next_cycle {cycles k : Nat} {s t : State} (hk : k + 1 < cycles) (h : s.InDelay cycles k)
    (hr : s.resetting = false) (hstep : step s = .next t) : t.InDelay cycles (k + 1) := by
  have hbusy : s.busy = true := h.busy.trans (decide_eq_true hk)
  have hdone : s.done = false := h.done.trans (decide_eq_false (by omega))
  have hrem : 2 ≤ s.rem := by rw [h.rem]; omega
  have hadvance := advance_dly h.mode hrem
  obtain ⟨-, tmode, -, -, -, trem, -, -, -, -, -, -, -, -, -, tdone, -⟩ := step_busy hbusy hr hstep
  have counts : t.rem = s.rem - 1 := by rw [trem, hadvance]
  have sets : t.done = decide (s.rem = 2) := by rw [tdone hdone, hadvance, hdone, Bool.false_or]
  have last : s.rem = 2 ↔ k + 1 + 1 = cycles := by rw [h.rem]; omega
  refine ⟨by rw [tmode, hadvance, h.mode], ?_, sets.trans (decide_eq_decide.mpr last)⟩
  rw [counts, h.rem, Nat.sub_sub]

/-- The first cycle of a delay is the one after its acceptance. -/
theorem inDelay_of_presents {i : Instr} {cycles : Nat} (h : delayLength i = some cycles) {s t : State} (hs : s.ready)
    (hp : s.presents i) (hstep : step s = .next t) : t.InDelay cycles 0 := by
  rw [step_of_presents hp (exec_delay h hs)] at hstep
  cases hstep
  exact ⟨rfl, rfl, decide_eq_decide.mpr (by omega)⟩

/-- Outside LED mode DOUT is low (10_state R45). -/
theorem dout_of_mode_ne_led {s : State} (h : s.mode ≠ .led) : s.dout = false := by
  simp [State.dout, State.doutWith, h]

/-- Settles O34: the acceptance leads into the first cycle of the delay, and every step to the next one. -/
theorem delayTimeline : Obligations.DelayTimeline := by
  intro i cycles hi s t u n hs hp hstep hrun hn
  have hlength : delayLength i = some cycles := by
    rcases hi with ⟨rfl, rfl⟩ | ⟨rfl, rfl⟩ | ⟨_, rfl, rfl⟩ <;> rfl
  have first : t.InDelay cycles 0 := inDelay_of_presents hlength hs hp hstep
  have here : u.InDelay cycles n := by
    simpa using RunsWhile.carries State.InDelay.next_cycle hrun (by omega) first
  exact ⟨dout_of_mode_ne_led (by simp [here.mode]), here.mode, here.rem, here.busy, here.done⟩

end Sys2Proof.Machine
end

section
/-! The LED commands: what each loads at its acceptance, where it stands in each of its active cycles, and the waveform of
EMIT0 and EMIT1 (41_bit_encoder). -/
namespace Sys2Proof.Machine

/-! ## Acceptance of an LED command (41_bit_encoder R113, R114, 42_pixel_streamer R122) -/

/-- The pattern and the number of bits an LED command loads. -/
def ledLoad : Instr → Option (Pixel × Nat)
  | .emit0 => some (0x000000, 1)
  | .emit1 => some (0x800000, 1)
  | .wcolor r g b => some (pixelWord r g b, pixelBits)
  | _ => none

/-- A command with an LED load has the open gate, and its Start loads the pattern and the number of bits. -/
theorem start_of_ledLoad {i : Instr} {pattern : Pixel} {bits : Nat} (h : ledLoad i = some (pattern, bits)) :
    gateOf i = openGate ∧ startOf i = fun s => s.startLed pattern bits := by
  cases i with
  | emit0 | emit1 | wcolor => cases h; exact ⟨rfl, rfl⟩
  | _ => cases h

/-- The first cycle of a bit is not the command's final one, so that DONE is not set at the acceptance (10_state R49). -/
theorem started_startLed {s : State} (hd : s.done = false) (pattern : Pixel) (bits : Nat) :
    (s.startLed pattern bits).started = s.startLed pattern bits := by
  simp [State.started, State.startLed, State.final, bitPeriod, hd]

/-- The state that the acceptance of an LED command leaves. -/
theorem exec_led {i : Instr} {pattern : Pixel} {bits : Nat} (h : ledLoad i = some (pattern, bits)) {s : State}
    (hs : s.ready) : exec i s = .next { s.freed with mode := .led, sr := pattern, ph := 0, bl := bits } := by
  obtain ⟨hgate, hstart⟩ := start_of_ledLoad h
  rw [exec_of_ready hs (by rw [hgate]; rfl), hstart, started_startLed rfl]
  rfl

/-- Settles O21: each of the two loads its bit; no gate asks for I2C_EN or I2C_STATE. -/
theorem emitCommandsStart : Obligations.EmitCommandsStart :=
  fun _ hs => ⟨exec_led rfl hs, exec_led rfl hs⟩

/-! ## The active cycles of an LED command (10_state R46 step 1, 41_bit_encoder R111, R115) -/

/-- The k-th cycle, from 0, of an LED command that loaded `bits` bits of the pattern: PH counts the cycles of a bit, and each
finished bit shifts SR and takes one from BL. -/
structure State.InLed (pattern : Pixel) (bits k : Nat) (s : State) : Prop where
  mode : s.mode = .led
  sr : s.sr = pattern <<< (k / bitPeriod)
  ph : s.ph = k % bitPeriod
  bl : s.bl = bits - k / bitPeriod
  done : s.done = s.final

namespace State.InLed

variable {pattern : Pixel} {bits k : Nat} {s : State}

/-- The final cycle is the last one of the last bit (10_state R31). -/
theorem final_eq (h : s.InLed pattern bits k) : s.final = decide (k + 1 = bitPeriod * bits) := by
  have last : s.bl = 1 ∧ s.ph = bitPeriod - 1 ↔ k + 1 = bitPeriod * bits := by
    rw [h.bl, h.ph, bitPeriod]
    omega
  rw [Bool.eq_iff_iff]
  simpa [State.final, h.mode] using last

/-- BUSY is 1 in all cycles but the last (10_state R31). -/
theorem busy_eq (h : s.InLed pattern bits k) (hk : k < bitPeriod * bits) :
    s.busy = decide (k + 1 < bitPeriod * bits) := by
  have before : ¬ k + 1 = bitPeriod * bits ↔ k + 1 < bitPeriod * bits := by omega
  simp [State.busy, h.mode, h.final_eq, ← before]

/-- DOUT is high in the first TH cycles of each bit, the bits going out from bit 23 down (41_bit_encoder R110, R111). -/
theorem dout_eq (h : s.InLed pattern bits k) (hk : k < bitPeriod * pixelBits) :
    s.dout = decide (k % bitPeriod < highCycles Config.params (pattern.getLsbD (23 - k / bitPeriod))) := by
  have hslot : ¬ 23 < k / bitPeriod := Nat.not_lt.mpr (Nat.lt_succ_iff.mp (Nat.div_lt_of_lt_mul hk))
  have hbit : s.sr.getLsbD 23 = pattern.getLsbD (23 - k / bitPeriod) := by
    rw [h.sr, BitVec.getLsbD_shiftLeft, decide_eq_false hslot]
    rfl
  rw [State.dout, State.doutWith, h.mode, h.ph, hbit]
  rfl

/-- The advance of a cycle that is not the final one leads to the next cycle: inside a bit PH counts on, and at the end of one
SR and BL go on to the next bit. -/
theorem advance (h : s.InLed pattern bits k) (hf : s.final = false) : s.advance.InLed pattern bits (k + 1) := by
  have hdone : s.done = false := h.done.trans hf
  rw [advance_led h.mode hf]
  split
  · next hp =>
    rw [h.ph, bitPeriod] at hp
    have same : (k + 1) / bitPeriod = k / bitPeriod := by rw [bitPeriod]; omega
    have count : (k + 1) % bitPeriod = k % bitPeriod + 1 := by rw [bitPeriod]; omega
    exact ⟨h.mode, by rw [same, h.sr], by rw [count, h.ph], by rw [same, h.bl], by rw [hdone]; rfl⟩
  · next hp =>
    rw [h.ph, bitPeriod] at hp
    have nextBit : (k + 1) / bitPeriod = k / bitPeriod + 1 := by rw [bitPeriod]; omega
    have firstCycle : (k + 1) % bitPeriod = 0 := by rw [bitPeriod]; omega
    exact ⟨h.mode, by rw [nextBit, h.sr, BitVec.shiftLeft_add], by rw [firstCycle], by rw [nextBit, h.bl, Nat.sub_sub],
      by rw [hdone]; rfl⟩

/-- A step from a cycle that is not the last leads to the next one: BUSY is 1, so that no access gets further than the error
record and DONE. -/
theorem next_cycle {t : State} (hk : k + 1 < bitPeriod * bits) (h : s.InLed pattern bits k)
    (hr : s.resetting = false) (hstep : step s = .next t) : t.InLed pattern bits (k + 1) := by
  have hbusy : s.busy = true := (h.busy_eq (by omega)).trans (decide_eq_true hk)
  have hfinal : s.final = false := h.final_eq.trans (decide_eq_false (by omega))
  have moved := h.advance hfinal
  obtain ⟨-, tmode, tsr, tph, tbl, -, -, -, -, -, -, -, -, -, -, tdone, -⟩ := step_busy hbusy hr hstep
  have tfinal : t.final = s.advance.final := by
    simp only [State.final, tmode, moved.mode, tph, tbl]
  exact ⟨tmode.trans moved.mode, tsr.trans moved.sr, tph.trans moved.ph, tbl.trans moved.bl,
    (tdone (h.done.trans hfinal)).trans (moved.done.trans tfinal.symm)⟩

end State.InLed

/-- The acceptance of an LED command leads into its first cycle. -/
theorem inLed_of_presents {i : Instr} {pattern : Pixel} {bits : Nat} (h : ledLoad i = some (pattern, bits)) {s t : State}
    (hs : s.ready) (hp : s.presents i) (hstep : step s = .next t) : t.InLed pattern bits 0 := by
  rw [step_of_presents hp (exec_led h hs)] at hstep
  cases hstep
  exact ⟨rfl, (BitVec.shiftLeft_zero _).symm, rfl, rfl, (Bool.and_false _).symm⟩

/-- From its acceptance on, an LED command is in its n-th cycle n steps after its first one, whatever the host and the
environment do short of a reset (41_bit_encoder R115). -/
theorem inLed_of_runs {i : Instr} {pattern : Pixel} {bits : Nat} (h : ledLoad i = some (pattern, bits)) {s t u : State}
    {n : Nat} (hs : s.ready) (hp : s.presents i) (hstep : step s = .next t) (hrun : RunsNoReset n t u)
    (hn : n < bitPeriod * bits) : u.InLed pattern bits n := by
  have first := inLed_of_presents h hs hp hstep
  simpa using RunsWhile.carries State.InLed.next_cycle hrun (by omega) first

/-! ## The waveform of one bit (41_bit_encoder R111, R113 to R115) -/

/-- A command that loads one bit sends the top bit of its pattern in one slot of 20 cycles. -/
theorem State.InLed.waveform_oneBit {pattern : Pixel} {n : Nat} {u : State} (h : u.InLed pattern 1 n) (hn : n < 20) :
    u.dout = decide (n < highCycles Config.params (pattern.getLsbD 23)) ∧ u.busy = decide (n < 19) ∧
      u.done = decide (n = 19) := by
  have hslot : n / bitPeriod = 0 ∧ n % bitPeriod = n := ⟨Nat.div_eq_of_lt hn, Nat.mod_eq_of_lt hn⟩
  refine ⟨?_, (h.busy_eq hn).trans ?_, (h.done.trans h.final_eq).trans ?_⟩
  · rw [h.dout_eq (Nat.lt_trans hn (by decide)), hslot.1, hslot.2, Nat.sub_zero]
  · exact decide_eq_decide.mpr (Nat.add_lt_add_iff_right (k := 1))
  · exact decide_eq_decide.mpr (Nat.add_right_cancel_iff (n := 1))

/-- Settles O32: the acceptance leads into the first cycle of the bit slot, every step to the next one, and the top bit of the
pattern is the bit sent. -/
theorem emitWaveform : Obligations.EmitWaveform := by
  intro b s t u n hs hp hstep hrun hn
  cases b with
  | false => exact (inLed_of_runs (i := .emit0) rfl hs hp hstep hrun hn).waveform_oneBit hn
  | true => exact (inLed_of_runs (i := .emit1) rfl hs hp hstep hrun hn).waveform_oneBit hn

end Sys2Proof.Machine
end

section
/-! WCOLOR (42_pixel_streamer): the pixel it loads, bit by bit in transmission order, and its waveform over 24 bit slots. -/
namespace Sys2Proof.Machine

/-! ## The bits of the loaded pixel (42_pixel_streamer R120) -/

section
variable (r g b : Byte) {j : Nat}

theorem pixelWord_red : (pixelWord r g b).getLsbD (16 + j) = r.getLsbD j := by
  rw [pixelWord, BitVec.getLsbD_append, if_neg (by omega), BitVec.getLsbD_append, if_neg (by omega)]
  congr 1
  omega

theorem pixelWord_green (h : j < 8) : (pixelWord r g b).getLsbD (8 + j) = g.getLsbD j := by
  rw [pixelWord, BitVec.getLsbD_append, if_neg (by omega), BitVec.getLsbD_append, if_pos (by omega),
    Nat.add_sub_cancel_left]

theorem pixelWord_blue (h : j < 8) : (pixelWord r g b).getLsbD j = b.getLsbD j := by
  rw [pixelWord, BitVec.getLsbD_append, if_pos h]

/-- The pixel is w[23:0] of the command's word (30_encoding R81). -/
theorem pixelWord_eq_encode : pixelWord r g b = (encode (.wcolor r g b)).extractLsb' 0 24 :=
  (Laws.packWord_fields _ _).symm

end

/-- Settles O22: the acceptance loads the pixel of the word, and the top bit of each channel is the first one sent. -/
theorem wcolorLoadsThePixel : Obligations.WcolorLoadsThePixel := by
  intro r g b s hs
  refine ⟨pixelWord r g b, exec_led rfl hs, pixelWord_eq_encode r g b, fun i hi => ?_⟩
  have red : 23 - i = 16 + (7 - i) := by omega
  have green : 23 - (8 + i) = 8 + (7 - i) := by omega
  have blue : 23 - (16 + i) = 7 - i := by omega
  rw [red, green, blue]
  exact ⟨pixelWord_red r g b, pixelWord_green r g b (by omega), pixelWord_blue r g b (by omega)⟩

/-! ## The waveform of a pixel (42_pixel_streamer R121) -/

/-- Settles O33: n steps after its first cycle WCOLOR is in its n-th cycle, the cycle n % 20 of the bit slot n / 20, and the
last of the 24 slots ends the command. -/
theorem wcolorWaveform : Obligations.WcolorWaveform := by
  intro r g b s t u n hs hp hstep hrun hn
  have here : u.InLed (pixelWord r g b) pixelBits n :=
    inLed_of_runs (i := .wcolor r g b) rfl hs hp hstep hrun hn
  have final : u.final = decide (n = 479) :=
    here.final_eq.trans (decide_eq_decide.mpr (Nat.add_right_cancel_iff (n := 1)))
  have busy : u.busy = decide (n < 479) :=
    (here.busy_eq hn).trans (decide_eq_decide.mpr (Nat.add_lt_add_iff_right (k := 1)))
  exact ⟨here.dout_eq hn, busy, here.done.trans final, final, here.sr, here.ph, here.bl⟩

end Sys2Proof.Machine
end

section
/-! The acceptance of the I2C commands (43_i2c_primitives R131, R132, 44_i2c_transactions R152, R154): each starts its phases in
the states its row allows, and is rejected with SEQ in the others. -/
namespace Sys2Proof.Machine

/-! ## The rows of the legality table (43_i2c_primitives R132) -/

theorem legalStart_iff {st : I2cState} : legalStart st = true ↔ st = .idle := by
  simp [legalStart]

theorem legalRestart_iff {st : I2cState} : legalRestart st = true ↔ st = .regSent := by
  simp [legalRestart]

theorem legalStop_iff {st : I2cState} : legalStop st = true ↔ st = .dataSent ∨ st = .ackSent := by
  simp [legalStop]

theorem legalTx_iff {b : Byte} {st : I2cState} :
    legalTx b st = true ↔ (st = .startSent ∧ b.getLsbD 0 = false) ∨ st = .addrSent ∨ st = .regSent ∨
      (st = .restartSent ∧ b.getLsbD 0 = true) := by
  simp only [legalTx, Bool.or_eq_true, Bool.and_eq_true, beq_iff_eq, Bool.not_eq_true', or_assoc]

theorem legalRxn_iff {st : I2cState} : legalRxn st = true ↔ st = .addrSentRead := by
  simp [legalRxn]

theorem legalWreg_iff {st : I2cState} : legalWreg st = true ↔ st = .idle := by
  simp [legalWreg]

theorem legalRreg_iff {st : I2cState} : legalRreg st = true ↔ st = .idle := by
  simp [legalRreg]

/-! ## Acceptance and rejection of an I2C command (10_state R49) -/

/-- What an I2C command brings to its acceptance: the states it is legal in, its phases, and whether it is a transaction
command. -/
structure I2cLoad where
  legal : I2cState → Bool
  phases : List Phase
  xact : Bool

/-- The rows of 43_i2c_primitives R131 and R132. -/
def i2cLoad : Instr → Option I2cLoad
  | .i2cStart => some ⟨legalStart, [.start], false⟩
  | .i2cRestart => some ⟨legalRestart, [.restart], false⟩
  | .i2cStop => some ⟨legalStop, [.stop], false⟩
  | .i2cTx b => some ⟨legalTx b, [.tx b], false⟩
  | .i2cRxn => some ⟨legalRxn, [.rxb, .nak], false⟩
  | .i2cWreg a r d => some ⟨legalWreg, wregPhases a r d, true⟩
  | .i2cRreg a r => some ⟨legalRreg, rregPhases a r, true⟩
  | _ => none

/-- A command with an I2C load has the gate of its legality, and its Start loads its phases. -/
theorem start_of_i2cLoad {i : Instr} {l : I2cLoad} (h : i2cLoad i = some l) :
    gateOf i = i2cGate l.legal ∧ startOf i = fun s => s.startI2c l.phases l.xact := by
  cases i with
  | i2cStart | i2cRestart | i2cStop | i2cTx | i2cRxn | i2cWreg | i2cRreg => cases h; exact ⟨rfl, rfl⟩
  | _ => cases h

/-- A ready state rejects a command that its gate does not let through (10_state R49). -/
theorem exec_of_ready_rejected {i : Instr} {s : State} {code : ErrCode} (h : s.ready)
    (hg : gateOf i s.freed = some code) : exec i s = .next (s.rejected code) := by
  rw [← clearDone_advance h] at hg
  rw [exec_eq_onEdge, onEdge_of_seqOk _ h.1, acceptCommand_rejected _ h.2 hg, clearDone_advance h]
  rfl

section
variable {i : Instr} {l : I2cLoad} {s : State}

/-- An I2C command starts its phases where it is enabled and legal. -/
theorem exec_i2c_legal (h : i2cLoad i = some l) (hs : s.ready) (hen : s.i2cEn = true)
    (hl : l.legal s.freed.i2cState = true) :
    exec i s = .next { s.freed with mode := .i2c, pl := l.phases, pidx := 0, xact := l.xact, nack := false } := by
  obtain ⟨hgate, hstart⟩ := start_of_i2cLoad h
  rw [exec_of_ready hs (by rw [hgate]; exact i2cGate_eq_none.mpr ⟨hen, hl⟩), hstart]
  rfl

/-- An enabled I2C command is rejected with SEQ where it is not legal. -/
theorem exec_i2c_seq (h : i2cLoad i = some l) (hs : s.ready) (hen : s.i2cEn = true)
    (hl : ¬ l.legal s.freed.i2cState = true) : exec i s = .next (s.rejected .seq) := by
  have hfreed : s.freed.i2cEn = true := hen
  refine exec_of_ready_rejected hs ?_
  rw [(start_of_i2cLoad h).1]
  simp [i2cGate, hfreed, hl]

end

/-- Settles O20: outside the states of its row a command is not legal. -/
theorem outOfSequenceRejected : Obligations.OutOfSequenceRejected := by
  intro s hs hen
  refine ⟨fun hst => ⟨?_, fun a r d => ?_, fun a r => ?_⟩, fun hst => ?_, fun hdata hack => ?_,
    fun b haddr hreg hstart hrestart => ?_, fun hst => ?_⟩
  · exact exec_i2c_seq rfl hs hen (mt legalStart_iff.mp hst)
  · exact exec_i2c_seq rfl hs hen (mt legalWreg_iff.mp hst)
  · exact exec_i2c_seq rfl hs hen (mt legalRreg_iff.mp hst)
  · exact exec_i2c_seq rfl hs hen (mt legalRestart_iff.mp hst)
  · exact exec_i2c_seq rfl hs hen (mt legalStop_iff.mp (not_or.mpr ⟨hdata, hack⟩))
  · refine exec_i2c_seq rfl hs hen (mt legalTx_iff.mp ?_)
    rintro (h | h | h | h)
    exacts [hstart h, haddr h, hreg h, hrestart h]
  · exact exec_i2c_seq rfl hs hen (mt legalRxn_iff.mp hst)

/-- Settles O24: in the states of its row a primitive command is legal, and starts its phases. -/
theorem i2cPrimitivesStart : Obligations.I2cPrimitivesStart := by
  intro s hs hen
  refine ⟨fun hst => ?_, fun hst => ?_, fun hst => ?_, fun b hst => ?_, fun hst => ?_⟩
  · exact exec_i2c_legal (i := .i2cStart) rfl hs hen (legalStart_iff.mpr hst)
  · exact exec_i2c_legal (i := .i2cRestart) rfl hs hen (legalRestart_iff.mpr hst)
  · exact exec_i2c_legal (i := .i2cStop) rfl hs hen (legalStop_iff.mpr hst)
  · exact exec_i2c_legal (i := .i2cTx b) rfl hs hen (legalTx_iff.mpr hst)
  · exact exec_i2c_legal (i := .i2cRxn) rfl hs hen (legalRxn_iff.mpr hst)

/-! ## The address bytes of the transaction commands (20_memory R69) -/

theorem addrWrite_toNat (a : BitVec 7) : (addrWrite a).toNat = 2 * a.toNat := by
  rw [addrWrite, BitVec.toNat_append, Nat.shiftLeft_eq, Nat.mul_comm]
  exact Nat.or_zero _

theorem addrRead_toNat (a : BitVec 7) : (addrRead a).toNat = 2 * a.toNat + 1 := by
  rw [addrRead, BitVec.toNat_append, Nat.shiftLeft_eq, Nat.mul_comm]
  exact (Nat.two_pow_add_eq_or_of_lt (i := 1) (by decide) a.toNat).symm

/-- The DONE clear of an acceptance takes STOP_SENT to IDLE (43_i2c_primitives R142). -/
theorem freed_idle {s : State} (h : s.i2cState = .idle ∨ s.i2cState = .stopSent) : s.freed.i2cState = .idle := by
  rcases h with h | h <;> simp [State.freed, h, I2cState.afterClear]

/-- Settles O25: from IDLE or STOP_SENT the acceptance finds IDLE, where both transaction commands are legal. -/
theorem i2cTransactionsStart : Obligations.I2cTransactionsStart := by
  intro a r d s hs hen hst
  refine ⟨addrWrite a, addrRead a, addrWrite_toNat a, addrRead_toNat a, ?_, ?_⟩
  · exact exec_i2c_legal (i := .i2cWreg a r d) rfl hs hen (legalWreg_iff.mpr (freed_idle hst))
  · exact exec_i2c_legal (i := .i2cRreg a r) rfl hs hen (legalRreg_iff.mpr (freed_idle hst))

end Sys2Proof.Machine
end

section
/-! The phases of the I2C master (43_i2c_primitives): what the completion of a phase does, that I2C_STATE follows the source's
graph, that a phase has no timeout, and which events a command puts on the trace. -/
namespace Sys2Proof.Machine

/-! ## The completion of a phase (43_i2c_primitives R130, R144) -/

section
variable (q : Phase) (st : I2cState) (e : EnvInput)

theorem gives_event : q.gives (q.event e) = true := by
  cases q <;> simp [Phase.gives, Phase.event]

theorem nextNack_of_not_tx (nack : Bool) (h : ∀ b, q ≠ .tx b) : q.nextNack nack e = nack := by
  by_contra hne
  obtain ⟨⟨b, hb⟩, -⟩ := nextNack_cases hne
  exact h b hb

theorem nextRxdata_eq (b : Byte) : q.nextRxdata b e = if q = .rxb then e.rx else b := by
  cases q <;> rfl

/-- I2C_STATE after each phase, but for a TX phase outside the table of R144. -/
theorem nextState_rows :
    (q = .start → q.nextState st = .startSent) ∧ (q = .restart → q.nextState st = .restartSent) ∧
    (q = .rxb → q.nextState st = .dataReceived) ∧ (q = .nak → q.nextState st = .ackSent) ∧
    (q = .stop → q.nextState st = .stopSent) ∧
    ∀ b, q = .tx b →
      (st = .startSent → q.nextState st = .addrSent) ∧ (st = .addrSent → q.nextState st = .regSent) ∧
      (st = .regSent → q.nextState st = .dataSent) ∧ (st = .restartSent → q.nextState st = .addrSentRead) := by
  have row : ∀ p : Phase, q = p → q.nextState st = p.nextState st := fun _ h => h ▸ rfl
  refine ⟨row .start, row .restart, row .rxb, row .nak, row .stop, fun b hb => ?_⟩
  subst hb
  exact ⟨congrArg txNext, congrArg txNext, congrArg txNext, congrArg txNext⟩

end

/-- Settles O36: the phase is applied and PIDX counts on; what a phase does to the state is `nextState_rows`. -/
theorem phaseCompletion : Obligations.PhaseCompletion := by
  intro s ph hm he hq hl
  obtain ⟨hstart, hrestart, hrxb, hnak, hstop, htx⟩ := nextState_rows ph s.i2cState
  rw [advance_i2c_phase hm he hq hl.ne]
  refine ⟨rfl, hm, rfl, rfl, fun h => ⟨hstart h, ?_⟩, fun h => ⟨hrestart h, ?_⟩, fun b h => ⟨?_, ?_, htx b h⟩,
    fun h => ⟨hrxb h, ?_, ?_⟩, fun h => ⟨hnak h, ?_⟩, fun h => ⟨hstop h, ?_⟩, nextNack_of_not_tx ph s.env s.nack,
    fun h => (nextRxdata_eq ph s.env s.rxdata).trans (if_neg h)⟩
  all_goals (subst h; rfl)

/-- Settles O37: the last phase is applied and the command ends, a transaction command in IDLE. -/
theorem lastPhaseEndsTheCommand : Obligations.LastPhaseEndsTheCommand := by
  intro s ph hm he hq hl
  rw [advance_i2c_last hm he hq hl]
  refine ⟨rfl, rfl, rfl, rfl, fun hx => ?_, fun hx => ?_, ⟨_, rfl, gives_event ph s.env⟩,
    nextNack_of_not_tx ph s.env s.nack, fun b h => ?_, nextRxdata_eq ph s.env s.rxdata,
    rfl, rfl, rfl, rfl, rfl, rfl, rfl, rfl, rfl⟩
  · simp [hx]
  · simpa [hx] using nextState_rows ph s.i2cState
  · subst h; rfl

/-! ## I2C_STATE along a step (43_i2c_primitives R133, R134) -/

/-- The transition table has only edges of the source's graph. -/
theorem phaseStep_mem_graph {st next : I2cState} {q : Phase} (h : phaseStep st q = some next) :
    (st, next) ∈ i2cGraph := by
  unfold phaseStep at h
  split at h <;> cases h <;> decide

/-- A STOP phase comes after DATA_SENT or ACK_SENT, and no other phase leads to STOP_SENT. -/
theorem phaseStep_stopSent {st : I2cState} {q : Phase} (h : phaseStep st q = some .stopSent) :
    st = .dataSent ∨ st = .ackSent := by
  unfold phaseStep at h
  split at h <;> cases h
  · exact .inl rfl
  · exact .inr rfl

/-- The next phase of a list that fits has a row in the transition table. -/
theorem PhasesFit.head {st : I2cState} {q : Phase} {rest : List Phase} {xact : Bool}
    (h : PhasesFit st (q :: rest) xact) : phaseStep st q = some (q.nextState st) := by
  obtain ⟨last, hfrom, -⟩ := h
  cases hq : phaseStep st q with
  | none => simp [phasesFrom, hq] at hfrom
  | some next => rw [nextState_of_phaseStep hq]

/-- A DONE clear leaves I2C_STATE or takes the graph's edge from STOP_SENT to IDLE (43_i2c_primitives R142). -/
theorem afterClear_moves (st : I2cState) : st.afterClear = st ∨ (st, st.afterClear) ∈ i2cGraph := by
  cases st <;> decide

namespace State.Inv

variable {s : State}

/-- The advance of the active command moves I2C_STATE along the graph, or ends a transaction command in IDLE. -/
theorem advance_i2cState {u : State} (h : s.Inv) (hu : AdvanceResult s u) :
    u.i2cState = s.i2cState ∨ (s.i2cState, u.i2cState) ∈ i2cGraph ∨
    (s.xact = true ∧ (s.i2cState = .dataSent ∨ s.i2cState = .ackSent) ∧ u.i2cState = .idle ∧ u.mode = .idle) := by
  cases hu with
  | ended | ledCycle | ledBit | dlyCycle | i2cWaits => exact .inl rfl
  | i2cPhase q hm he hq hl => exact .inr (.inl (phaseStep_mem_graph (h.phasesFit_cons hm hq).head))
  | i2cLast q hm he hq hl =>
    have hfit := h.phasesFit_cons hm hq
    cases hx : s.xact with
    | false =>
      have hedge := phaseStep_mem_graph hfit.head
      simp [hx, hedge]
    | true =>
      have hend := hfit.tail
      rw [hl, List.drop_length, hx] at hend
      have hstop : q.nextState s.i2cState = .stopSent := hend.at_end.2 rfl
      have hrow := hfit.head
      rw [hstop] at hrow
      exact .inr (.inr ⟨rfl, phaseStep_stopSent hrow, by simp [hx], rfl⟩)

/-- While BUSY = 1 no access changes I2C_STATE: DONE is clear, so that STOP_SENT comes only with DONE, and then the set wins
over a clear (10_state R36). -/
theorem step_busy_i2cState {t : State} (h : s.Inv) (hb : s.busy = true) (hr : s.resetting = false)
    (hstep : step s = .next t) : t.i2cState = s.advance.i2cState := by
  obtain ⟨hs, -, -, -, -, -, -, -, -, -, -, -, -, -, -, -, hst⟩ := step_busy hb hr hstep
  refine hst ?_
  by_cases hstop : s.advance.i2cState = .stopSent
  · exact .inl ⟨h.done_of_busy hb, (h.advance (advance_result hs)).stop_sent hstop⟩
  · exact .inr hstop

end State.Inv

@[simp] theorem startOf_i2cState (i : Instr) (s : State) : (startOf i s).i2cState = s.i2cState := by cases i <;> rfl

/-- A CTRL write that leaves I2C_EN at 0 writes 0 to its bit (10_state R28). -/
theorem ctrl_bit_of_disabled {now s : State} {v : Word} (hb : now.busy = false)
    (he : (writeCtrl v now s).i2cEn = false) : v.getLsbD 0 = false := by
  cases hv : v.getLsbD 0 with
  | false => rfl
  | true => rw [writeCtrl_enable s hb hv] at he; cases he

/-- While BUSY = 0 an access leaves I2C_STATE, clears DONE, or clears I2C_EN. -/
theorem accessEffect_i2cState {now : State} (hb : now.busy = false) (p : PortAccess) (s : State) :
    (accessEffect now p s).i2cState = s.i2cState ∨
    (accessEffect now p s).i2cState = s.i2cState.afterClear ∨
    ∃ v, p = .write 0 v ∧ v.getLsbD 0 = false ∧ (accessEffect now p s).i2cState = .idle ∧
      (accessEffect now p s).i2cEn = false := by
  have hres := accessEffect_result now s p
  generalize hu : accessEffect now p s = u at hres ⊢
  cases hres with
  | unchanged | overrun | bitrate | enabled => exact .inl rfl
  | cleared | rejected => exact .inr (.inl rfl)
  | started w i => exact .inr (.inl (by simp))
  | disabled v | abandoned v =>
    rw [accessEffect_ctrl] at hu
    exact .inr (.inr ⟨v, rfl, ctrl_bit_of_disabled hb (by rw [hu]), rfl, rfl⟩)

/-- Settles O39: while BUSY = 1 the step moves I2C_STATE as the advance does; otherwise only the access can. -/
theorem i2cStateFollowsTheGraph : Obligations.I2cStateFollowsTheGraph := by
  intro s t h hstep
  rcases step_next_cases hstep with ⟨hr, rfl⟩ | ⟨hr, -, hs, ht⟩
  · exact .inr (.inr (.inr (.inl ⟨hr, rfl⟩)))
  cases hb : s.busy with
  | true =>
    obtain ⟨-, tmode, -⟩ := step_busy hb hr hstep
    rw [h.step_busy_i2cState hb hr hstep, tmode]
    rcases h.advance_i2cState (advance_result hs) with hsame | hedge | hend
    exacts [.inl hsame, .inr (.inl hedge), .inr (.inr (.inl hend))]
  | false =>
    subst ht
    have haccess := accessEffect_i2cState hb s.port s.advance
    rw [advance_i2cState_of_not_busy hs hb] at haccess
    rcases haccess with hsame | hclear | hexit
    · exact .inl hsame
    · rw [endCycle_i2cState, hclear]
      exact (afterClear_moves s.i2cState).imp_right .inl
    · exact .inr (.inr (.inr (.inr hexit)))

/-! ## Runs of an I2C command -/

/-- What every step of such a run keeps holds at its end. -/
theorem RunsWhile.preserves {p : State → Bool} {P : State → Prop}
    (keep : ∀ {s t : State}, P s → p s = true → s.resetting = false → step s = .next t → P t) :
    ∀ {n : Nat} {s t : State}, RunsWhile p n s t → P s → P t
  | 0, _, _, h, hs => by cases h; exact hs
  | _ + 1, _, _, ⟨hp, hr, _, hu, h⟩, hs => RunsWhile.preserves keep h (keep hs hp hr hu)

theorem busy_of_i2c {s : State} (hm : s.mode = .i2c) : s.busy = true := by
  simp [State.busy, hm]

/-! ## No timeout (43_i2c_primitives R136) -/

/-- `u` is a cycle of the I2C command of `s` in which the master stands where it stood in `s`. -/
structure State.StandsAs (s u : State) : Prop where
  inv : u.Inv
  mode : u.mode = .i2c
  pidx : u.pidx = s.pidx
  pl : u.pl = s.pl
  i2cState : u.i2cState = s.i2cState
  trace : u.trace = s.trace
  nack : u.nack = s.nack
  rxdata : u.rxdata = s.rxdata

/-- A cycle in which the environment completes no phase does not move the master. -/
theorem State.StandsAs.waits {s u v : State} (h : s.StandsAs u) (he : u.env.done = false) (hr : u.resetting = false)
    (hstep : step u = .next v) : s.StandsAs v := by
  have hb := busy_of_i2c h.mode
  have hwait := advance_i2c_waits h.mode he
  have vstate := h.inv.step_busy_i2cState hb hr hstep
  obtain ⟨-, vmode, -, -, -, -, vpl, vpidx, -, vnack, vrxdata, vtrace, -⟩ := step_busy hb hr hstep
  rw [hwait] at vstate vmode vpl vpidx vnack vrxdata vtrace
  exact {
    inv := invariantKeptByEveryStep u v h.inv hstep
    mode := vmode.trans h.mode
    pidx := vpidx.trans h.pidx
    pl := vpl.trans h.pl
    i2cState := vstate.trans h.i2cState
    trace := vtrace.trans h.trace
    nack := vnack.trans h.nack
    rxdata := vrxdata.trans h.rxdata }

/-- Settles O38: a reset gives MODE IDLE, and every cycle without a completed phase leaves the master where it stands. -/
theorem noTimeout : Obligations.NoTimeout := by
  refine ⟨fun s t _ hr hstep => ?_, fun n s u h hm hrun => ?_⟩
  · rw [step_reset hr] at hstep
    cases hstep
    rfl
  · have stands : s.StandsAs u := hrun.preserves (P := s.StandsAs)
      (fun hs he hr hstep => hs.waits (by simpa using he) hr hstep) ⟨h, hm, rfl, rfl, rfl, rfl, rfl, rfl⟩
    exact ⟨stands.mode, busy_of_i2c stands.mode, stands.pidx, stands.pl, stands.i2cState, stands.trace, stands.nack,
      stands.rxdata⟩

/-! ## The events of a command (43_i2c_primitives R129, R130) -/

theorem phasesGive_concat {q : Phase} {e : BusEvent} (hq : q.gives e = true) :
    ∀ {phases : List Phase} {events : List BusEvent}, phasesGive phases events = true →
      phasesGive (phases ++ [q]) (events ++ [e]) = true
  | [], [], _ => by simp [phasesGive, hq]
  | [], _ :: _, h => by cases h
  | _ :: _, [], h => by cases h
  | _ :: _, _ :: _, h => by
    simp only [List.cons_append, phasesGive, Bool.and_eq_true] at h ⊢
    exact ⟨h.1, phasesGive_concat hq h.2⟩

/-- The trace has gained one event for each of these phases since it was `before`. -/
def Emitted (before : List BusEvent) (phases : List Phase) (trace : List BusEvent) : Prop :=
  ∃ events, trace = before ++ events ∧ phasesGive phases events = true

theorem Emitted.concat {before trace : List BusEvent} {phases : List Phase} (h : Emitted before phases trace)
    (q : Phase) (e : EnvInput) : Emitted before (phases ++ [q]) (trace ++ [q.event e]) := by
  obtain ⟨events, rfl, hgive⟩ := h
  exact ⟨events ++ [q.event e], List.append_assoc _ _ _, phasesGive_concat (gives_event q e) hgive⟩

/-- An I2C command of these phases, begun with the trace `before`, has emitted its finished phases: those before PIDX while it
runs, all of them when it has ended. -/
structure State.HasEmitted (phases : List Phase) (before : List BusEvent) (s : State) : Prop where
  running : s.mode = .i2c → s.pl = phases ∧ Emitted before (phases.take s.pidx) s.trace
  ended : s.mode ≠ .i2c → Emitted before phases s.trace

/-- The advance of a running command emits the phase it completes, if any. -/
theorem AdvanceResult.hasEmitted {phases : List Phase} {before : List BusEvent} {s u : State} (hu : AdvanceResult s u)
    (hm : s.mode = .i2c) (h : s.HasEmitted phases before) : u.HasEmitted phases before := by
  obtain ⟨rfl, hemit⟩ := h.running hm
  have finished : ∀ q, s.pl[s.pidx]? = some q →
      Emitted before (s.pl.take (s.pidx + 1)) (s.trace ++ [q.event s.env]) := fun q hq => by
    rw [List.take_add_one, hq]
    exact hemit.concat q s.env
  cases hu with
  | ended hb => exact absurd hm (not_busy_mode hb)
  | ledCycle hl | ledBit hl | dlyCycle hl => rw [hm] at hl; cases hl
  | i2cWaits => exact h
  | i2cPhase q _ he hq hl => exact ⟨fun _ => ⟨rfl, finished q hq⟩, fun hne => absurd hm hne⟩
  | i2cLast q _ he hq hl =>
    have all := finished q hq
    rw [hl, List.take_length] at all
    exact ⟨nofun, fun _ => all⟩

/-- A step of a running command: the host cannot touch MODE, PL, PIDX or the trace while BUSY = 1. -/
theorem State.HasEmitted.next_cycle {phases : List Phase} {before : List BusEvent} {s t : State}
    (h : s.HasEmitted phases before) (hm : s.mode = .i2c) (hr : s.resetting = false) (hstep : step s = .next t) :
    t.HasEmitted phases before := by
  obtain ⟨hs, tmode, -, -, -, -, tpl, tpidx, -, -, -, ttrace, -⟩ := step_busy (busy_of_i2c hm) hr hstep
  obtain ⟨hrunning, hended⟩ := (advance_result hs).hasEmitted hm h
  rw [← tmode, ← ttrace] at hrunning hended
  rw [← tpl, ← tpidx] at hrunning
  exact ⟨hrunning, hended⟩

/-- Settles O40: at the start no phase is finished, and every cycle of the command emits the phase it completes. -/
theorem commandEmitsItsPhasesInOrder : Obligations.CommandEmitsItsPhasesInOrder := by
  intro n t u hm h0 hrun
  have start : t.HasEmitted t.pl t.trace :=
    ⟨fun _ => ⟨rfl, [], (List.append_nil _).symm, by rw [h0]; rfl⟩, fun hne => absurd hm hne⟩
  obtain ⟨hrunning, hended⟩ := hrun.preserves (P := State.HasEmitted t.pl t.trace)
    (fun hs hi hr hstep => hs.next_cycle (by simpa using hi) hr hstep) start
  exact ⟨hrunning, hended⟩

end Sys2Proof.Machine
end

section
/-! The transaction commands of the I2C master (44_i2c_transactions): what the phases of a transaction leave on the bus, in NACK
and in RXDATA, whatever the environment draws, and how many cycles a transaction takes where every phase takes one. -/
namespace Sys2Proof.Machine

/-! ## What completed phases leave behind (43_i2c_primitives R130) -/

/-- What the phases of an I2C command write, apart from I2C_STATE: the bus trace, NACK and RXDATA. -/
structure BusRecord where
  trace : List BusEvent
  nack : Bool
  rxdata : Byte

/-- The record in a state of the machine. -/
def State.busRecord (s : State) : BusRecord := ⟨s.trace, s.nack, s.rxdata⟩

/-- The record after a phase that completes with the draws e. -/
def BusRecord.complete (b : BusRecord) (q : Phase) (e : EnvInput) : BusRecord :=
  ⟨b.trace ++ [q.event e], q.nextNack b.nack e, q.nextRxdata b.rxdata e⟩

/-- The record after the first phases of a list, one for each of these draws. -/
def BusRecord.completeAll : BusRecord → List Phase → List EnvInput → BusRecord
  | b, q :: phases, e :: draws => (b.complete q e).completeAll phases draws
  | b, _, _ => b

@[simp] theorem State.applyPhase_busRecord (s : State) (q : Phase) :
    (s.applyPhase q).busRecord = s.busRecord.complete q s.env := rfl

/-- One draw more completes the phase after the finished ones. -/
theorem BusRecord.completeAll_concat {q : Phase} (e : EnvInput) : ∀ (b : BusRecord) (phases : List Phase)
    (draws : List EnvInput), phases[draws.length]? = some q →
      b.completeAll phases (draws ++ [e]) = (b.completeAll phases draws).complete q e
  | _, _ :: _, [], h => by cases h; simp [completeAll]
  | _, _ :: phases, _ :: draws, h => completeAll_concat e _ phases draws h

/-- Each completed phase puts its event on the trace, in order (43_i2c_primitives R129). -/
theorem BusRecord.completeAll_trace : ∀ (b : BusRecord) (phases : List Phase) (draws : List EnvInput),
    (b.completeAll phases draws).trace = b.trace ++ List.zipWith Phase.event phases draws
  | _, [], _ => by simp [completeAll]
  | _, _ :: _, [] => by simp [completeAll]
  | b, q :: phases, e :: draws => by simp [completeAll, completeAll_trace _ phases draws, complete]

/-! ## The cycles of a transaction (44_i2c_transactions R153) -/

/-- A transaction of these phases runs, begun with the record `before`; its finished phases completed with these draws. -/
structure State.InTransaction (phases : List Phase) (before : BusRecord) (draws : List EnvInput) (s : State) : Prop where
  mode : s.mode = .i2c
  xact : s.xact = true
  done : s.done = false
  pl : s.pl = phases
  pidx : s.pidx = draws.length
  record : s.busRecord = before.completeAll phases draws

/-- Such a transaction has ended, and its phases completed with these draws. -/
structure State.Transacted (phases : List Phase) (before : BusRecord) (draws : List EnvInput) (s : State) : Prop where
  mode : s.mode = .idle
  done : s.done = true
  i2cState : s.i2cState = .idle
  all : draws.length = phases.length
  record : s.busRecord = before.completeAll phases draws

/-- While BUSY = 1 no access changes the record. -/
theorem step_busy_busRecord {s t : State} (hb : s.busy = true) (hr : s.resetting = false) (hstep : step s = .next t) :
    t.busRecord = s.advance.busRecord := by
  obtain ⟨-, -, -, -, -, -, -, -, -, tnack, trxdata, ttrace, -⟩ := step_busy hb hr hstep
  rw [State.busRecord, tnack, trxdata, ttrace]
  rfl

section
variable {phases : List Phase} {before : BusRecord} {draws later : List EnvInput} {s t : State}

/-- The next cycle runs the transaction where the advance does: no access touches a running command. -/
theorem State.InTransaction.of_advance (h : s.InTransaction phases before draws)
    (hu : s.advance.InTransaction phases before later) (hr : s.resetting = false) (hstep : step s = .next t) :
    t.InTransaction phases before later := by
  have hb := busy_of_i2c h.mode
  obtain ⟨-, tmode, -, -, -, -, tpl, tpidx, txact, -, -, -, -, -, -, tdone, -⟩ := step_busy hb hr hstep
  exact {
    mode := tmode.trans hu.mode
    xact := txact.trans hu.xact
    done := (tdone h.done).trans hu.done
    pl := tpl.trans hu.pl
    pidx := tpidx.trans hu.pidx
    record := (step_busy_busRecord hb hr hstep).trans hu.record }

/-- The transaction has ended in the next cycle where the advance ends it: DONE is set at that edge, so that no STATUS write
clears it (10_state R36). -/
theorem State.Transacted.of_advance (h : s.InTransaction phases before draws)
    (hu : s.advance.Transacted phases before later) (hr : s.resetting = false) (hstep : step s = .next t) :
    t.Transacted phases before later := by
  have hb := busy_of_i2c h.mode
  obtain ⟨-, tmode, -, -, -, -, -, -, -, -, -, -, -, -, -, tdone, tstate⟩ := step_busy hb hr hstep
  exact {
    mode := tmode.trans hu.mode
    done := (tdone h.done).trans hu.done
    i2cState := (tstate (.inl ⟨h.done, hu.done⟩)).trans hu.i2cState
    all := hu.all
    record := (step_busy_busRecord hb hr hstep).trans hu.record }

namespace State.InTransaction

/-- A running transaction has a phase in progress exactly where fewer phases are finished than it has. -/
theorem seqOk_iff (h : s.InTransaction phases before draws) : s.seqOk = true ↔ draws.length < phases.length := by
  simp [State.seqOk, h.mode, h.pl, h.pidx]

theorem phase_at (h : s.InTransaction phases before draws) (hlt : draws.length < phases.length) :
    s.pl[s.pidx]? = some phases[draws.length] := by
  rw [h.pl, h.pidx, List.getElem?_eq_getElem hlt]

/-- The record after the phase in progress. -/
theorem record_complete (h : s.InTransaction phases before draws) (hlt : draws.length < phases.length) :
    s.busRecord.complete phases[draws.length] s.env = before.completeAll phases (draws ++ [s.env]) := by
  rw [h.record, BusRecord.completeAll_concat s.env before phases draws (List.getElem?_eq_getElem hlt)]

/-- A cycle in which the environment completes no phase. -/
theorem waits (h : s.InTransaction phases before draws) (he : s.env.done = false) (hr : s.resetting = false)
    (hstep : step s = .next t) : t.InTransaction phases before draws := by
  refine h.of_advance ?_ hr hstep
  rw [advance_i2c_waits h.mode he]
  exact h

/-- A cycle in which a phase completes that is not the last. -/
theorem completes (h : s.InTransaction phases before draws) (he : s.env.done = true)
    (hl : draws.length + 1 < phases.length) (hr : s.resetting = false) (hstep : step s = .next t) :
    t.InTransaction phases before (draws ++ [s.env]) := by
  have hlt : draws.length < phases.length := by omega
  refine h.of_advance ?_ hr hstep
  rw [advance_i2c_phase h.mode he (h.phase_at hlt) (by rw [h.pl, h.pidx]; exact hl.ne)]
  exact ⟨h.mode, h.xact, h.done, h.pl, by simp [h.pidx], h.record_complete hlt⟩

/-- The cycle in which the last phase completes: a transaction command ends in IDLE (44_i2c_transactions R153). -/
theorem ends (h : s.InTransaction phases before draws) (he : s.env.done = true)
    (hl : draws.length + 1 = phases.length) (hr : s.resetting = false) (hstep : step s = .next t) :
    t.Transacted phases before (draws ++ [s.env]) := by
  have hlt : draws.length < phases.length := by omega
  refine Transacted.of_advance h ?_ hr hstep
  rw [advance_i2c_last h.mode he (h.phase_at hlt) (by rw [h.pl, h.pidx]; exact hl)]
  exact ⟨rfl, rfl, by simp [h.xact], by simpa using hl, h.record_complete hlt⟩

/-- A cycle of a transaction leads to a further cycle of it or ends it. -/
theorem next_cycle (h : s.InTransaction phases before draws) (hr : s.resetting = false) (hstep : step s = .next t) :
    ∃ later, t.InTransaction phases before later ∨ t.Transacted phases before later := by
  obtain ⟨hs, -⟩ := step_busy (busy_of_i2c h.mode) hr hstep
  have hlt := h.seqOk_iff.mp hs
  cases he : s.env.done with
  | false => exact ⟨_, .inl (h.waits he hr hstep)⟩
  | true =>
    rcases Nat.lt_or_eq_of_le hlt with hl | hl
    · exact ⟨_, .inl (h.completes he hl hr hstep)⟩
    · exact ⟨_, .inr (h.ends he hl hr hstep)⟩

end State.InTransaction

/-! ## A transaction from its acceptance on -/

variable {i : Instr} {l : I2cLoad}

/-- The acceptance of a transaction command leads into its first cycle, with NACK cleared (10_state R34). -/
theorem inTransaction_of_presents (h : i2cLoad i = some l) (hx : l.xact = true) (hs : s.ready) (hen : s.i2cEn = true)
    (hl : l.legal s.freed.i2cState = true) (hp : s.presents i) (hstep : step s = .next t) :
    t.InTransaction l.phases ⟨s.trace, false, s.rxdata⟩ [] := by
  rw [step_of_presents hp (exec_i2c_legal h hs hen hl)] at hstep
  cases hstep
  exact { mode := rfl, xact := hx, done := rfl, pl := rfl, pidx := rfl, record := by simp [BusRecord.completeAll]; rfl }

/-- A transaction command that is accepted and then ends has run through all its phases, whatever the host does short of a reset
and whatever the environment draws. -/
theorem transacted_of_runs {n : Nat} {u : State} (h : i2cLoad i = some l) (hx : l.xact = true) (hs : s.ready)
    (hen : s.i2cEn = true) (hl : l.legal s.freed.i2cState = true) (hp : s.presents i) (hstep : step s = .next t)
    (hrun : RunsWhile (fun x => x.mode == .i2c) n t u) (hu : u.mode ≠ .i2c) :
    ∃ draws, u.Transacted l.phases ⟨s.trace, false, s.rxdata⟩ draws := by
  have first := inTransaction_of_presents h hx hs hen hl hp hstep
  obtain ⟨draws, hin | hend⟩ := hrun.preserves
    (P := fun x => ∃ draws, x.InTransaction l.phases ⟨s.trace, false, s.rxdata⟩ draws ∨
      x.Transacted l.phases ⟨s.trace, false, s.rxdata⟩ draws)
    (fun hat hi hr hstep => by
      obtain ⟨draws, hin | hend⟩ := hat
      · exact hin.next_cycle hr hstep
      · simp [hend.mode] at hi)
    ⟨[], .inl first⟩
  · exact absurd hin.mode hu
  · exact ⟨draws, hend⟩

end

/-! ## The frames of the two transactions (44_i2c_transactions R152, R154) -/

/-- A finished transaction of the phases of I2C_WREG has put the write frame on the bus. -/
theorem State.Transacted.wreg_frame {a : BitVec 7} {r d : Byte} {before : BusRecord} {e1 e2 e3 e4 e5 : EnvInput}
    {u : State} (h : u.Transacted (wregPhases a r d) before [e1, e2, e3, e4, e5]) :
    u.trace = before.trace ++ [.s, .w (addrWrite a) e2.ack, .w r e3.ack, .w d e4.ack, .p] ∧
      u.nack = (before.nack || e2.ack || e3.ack || e4.ack) ∧ u.rxdata = before.rxdata :=
  ⟨(congrArg BusRecord.trace h.record).trans (BusRecord.completeAll_trace _ _ _), congrArg BusRecord.nack h.record,
    congrArg BusRecord.rxdata h.record⟩

/-- A finished transaction of the phases of I2C_RREG has put the read frame on the bus. -/
theorem State.Transacted.rreg_frame {a : BitVec 7} {r : Byte} {before : BusRecord} {e1 e2 e3 e4 e5 e6 e7 e8 : EnvInput}
    {u : State} (h : u.Transacted (rregPhases a r) before [e1, e2, e3, e4, e5, e6, e7, e8]) :
    u.trace = before.trace ++
        [.s, .w (addrWrite a) e2.ack, .w r e3.ack, .sr, .w (addrRead a) e5.ack, .r e6.rx, .n, .p] ∧
      u.nack = (before.nack || e2.ack || e3.ack || e5.ack) ∧ u.rxdata = e6.rx :=
  ⟨(congrArg BusRecord.trace h.record).trans (BusRecord.completeAll_trace _ _ _), congrArg BusRecord.nack h.record,
    congrArg BusRecord.rxdata h.record⟩

/-- Settles O41: the transaction has run through its five phases; the draws of the second to the fourth give the acknowledge
bits. -/
theorem wregBusFrame : Obligations.WregBusFrame := by
  intro a r d n s t u hs hen hst hp hstep hrun hu
  obtain ⟨draws, hend⟩ := transacted_of_runs (i := .i2cWreg a r d) rfl rfl hs hen
    (legalWreg_iff.mpr (freed_idle hst)) hp hstep hrun hu
  match draws, hend.all with
  | [_, e2, e3, e4, _], _ =>
    obtain ⟨htrace, hnack, hrx⟩ := hend.wreg_frame
    exact ⟨e2.ack, e3.ack, e4.ack, htrace, hnack, hend.i2cState, hend.done, hend.mode, hrx⟩

/-- Settles O42: the transaction has run through its eight phases; the second, third and fifth give the acknowledge bits, and the
sixth the byte. -/
theorem rregBusFrame : Obligations.RregBusFrame := by
  intro a r n s t u hs hen hst hp hstep hrun hu
  obtain ⟨draws, hend⟩ := transacted_of_runs (i := .i2cRreg a r) rfl rfl hs hen
    (legalRreg_iff.mpr (freed_idle hst)) hp hstep hrun hu
  match draws, hend.all with
  | [_, e2, e3, _, e5, e6, _, _], _ =>
    obtain ⟨htrace, hnack, hrx⟩ := hend.rreg_frame
    exact ⟨e2.ack, e3.ack, e5.ack, e6.rx, htrace, hnack, hend.i2cState, hend.done, hend.mode, hrx⟩

/-! ## A transaction with one-cycle phases and no other access -/

/-- The host makes no access any more: its script is used up and its program is empty (log 1). -/
structure State.HostSilent (s : State) : Prop where
  script : s.hostQ = []
  program : s.prog = []

section
variable {s : State}

theorem State.HostSilent.port (h : s.HostSilent) : s.port = .none := by
  rw [State.port, State.access, pins_of_empty_script h.script, h.program]
  rfl

theorem State.HostSilent.not_resetting (h : s.HostSilent) : s.resetting = false := by
  simp [State.resetting, pins_of_empty_script h.script, h.port]

/-- With a silent host the step is the advance and the end of the cycle. -/
theorem State.HostSilent.step (h : s.HostSilent) (hs : s.seqOk = true) : step s = .next (endCycle s s.advance) := by
  rw [step_of_seqOk h.not_resetting (by simp [h.port]) hs, h.port]
  rfl

theorem State.HostSilent.endCycle (h : s.HostSilent) (u : State) : (endCycle s u).HostSilent := by
  refine ⟨by simp [h.script], ?_⟩
  simp [pins_of_empty_script h.script, h.program, programNext]

/-- In a scripted cycle the environment draws the head of its script (log 1). -/
theorem env_of_script {e : EnvInput} {rest : List EnvInput} (h : s.envQ = e :: rest) : s.env = e := by
  rw [State.env, h]
  rfl

/-- A run goes on from the state its first step gives. -/
theorem core_run_of_step {t : State} (n : Nat) (h : step s = .next t) : core.run (n + 1) s = core.run n t := by
  have hcore : core.step s = .next t := h
  simp only [Host.Core.run, hcore]

/-- With a silent host a running transaction whose remaining phases complete in one cycle each has ended after them. -/
theorem State.InTransaction.run_oneCyclePhases {phases : List Phase} {before : BusRecord} {es : List EnvInput} :
    ∀ {draws : List EnvInput} {e : EnvInput} {finished : List EnvInput} {s : State},
      s.InTransaction phases before finished → s.HostSilent → s.envQ = e :: draws ++ es →
      (∀ x ∈ e :: draws, x.done = true) → finished.length + (draws.length + 1) = phases.length →
      ∃ u, core.run (draws.length + 1) s = .next u ∧ u.Transacted phases before (finished ++ e :: draws)
  | draws, e, finished, s, h, hq, henv, hdone, hlen => by
    have hstep := hq.step (h.seqOk_iff.mpr (by omega))
    have he : s.env = e := env_of_script henv
    have completes : s.env.done = true := he ▸ hdone e List.mem_cons_self
    rw [core_run_of_step _ hstep]
    cases draws with
    | nil =>
      exact ⟨_, rfl, he ▸ h.ends completes hlen hq.not_resetting hstep⟩
    | cons e' draws =>
      have onward := h.completes completes (by simp at hlen; omega) hq.not_resetting hstep
      rw [he] at onward
      have rest := onward.run_oneCyclePhases (es := es) (hq.endCycle _) (by simp [henv])
        (fun x hx => hdone x (List.mem_cons_of_mem _ hx)) (by simp at hlen ⊢; omega)
      rwa [List.append_assoc] at rest

/-- A transaction command that is the host's last access, from its acceptance to its end, where every phase takes one cycle. -/
theorem run_transaction {i : Instr} {l : I2cLoad} {e0 e : EnvInput} {draws es : List EnvInput} (h : i2cLoad i = some l)
    (hx : l.xact = true) (hs : s.ready) (hen : s.i2cEn = true) (hl : l.legal s.freed.i2cState = true)
    (hprog : s.prog = [])
    (hq : s.hostQ = [{ rst := false, act := .access (.write 0x08 .word (encode i)) }])
    (henv : s.envQ = e0 :: e :: draws ++ es) (hdone : ∀ x ∈ e :: draws, x.done = true)
    (hlen : draws.length + 1 = l.phases.length) :
    ∃ u, core.run (draws.length + 2) s = .next u ∧
      u.Transacted l.phases ⟨s.trace, false, s.rxdata⟩ (e :: draws) := by
  have hpins : s.pins = { rst := false, act := .access (.write 0x08 .word (encode i)) } := by
    rw [State.pins, hq]
    rfl
  have hp : s.presents i := by
    refine ⟨by rw [hpins], ?_⟩
    rw [State.port, State.access, hpins]
    rfl
  have hstep := step_of_presents hp (exec_i2c_legal h hs hen hl)
  have first := inTransaction_of_presents h hx hs hen hl hp hstep
  rw [core_run_of_step _ hstep]
  refine first.run_oneCyclePhases (es := es) ⟨?_, ?_⟩ ?_ hdone (by simpa using hlen)
  · rw [endCycle_hostQ, hq]
    rfl
  · rw [endCycle_prog, hpins, if_neg nofun, hprog]
  · rw [endCycle_envQ, henv]
    rfl

end

/-- Settles O43: one cycle for the acceptance, and one for each of the five phases. -/
theorem wregEndsInFiveCycles : Obligations.WregEndsInFiveCycles := by
  intro a r d s e0 e1 e2 e3 e4 e5 es hs hen hst hprog hq henv h1 h2 h3 h4 h5
  obtain ⟨u, hrun, hend⟩ := run_transaction (i := .i2cWreg a r d) (draws := [e2, e3, e4, e5]) rfl rfl hs hen
    (legalWreg_iff.mpr (freed_idle (.inl hst))) hprog hq henv (by simp [h1, h2, h3, h4, h5]) rfl
  obtain ⟨htrace, hnack, -⟩ := hend.wreg_frame
  exact ⟨u, hrun, hend.mode, hend.done, hend.i2cState, hnack, htrace⟩

/-- Settles O44: one cycle for the acceptance, and one for each of the eight phases. -/
theorem rregEndsInEightCycles : Obligations.RregEndsInEightCycles := by
  intro a r s e0 e1 e2 e3 e4 e5 e6 e7 e8 es hs hen hst hprog hq henv h1 h2 h3 h4 h5 h6 h7 h8
  obtain ⟨u, hrun, hend⟩ := run_transaction (i := .i2cRreg a r) (draws := [e2, e3, e4, e5, e6, e7, e8]) rfl rfl hs hen
    (legalRreg_iff.mpr (freed_idle (.inl hst))) hprog hq henv (by simp [h1, h2, h3, h4, h5, h6, h7, h8]) rfl
  obtain ⟨-, hnack, hrx⟩ := hend.rreg_frame
  exact ⟨u, hrun, hend.mode, hend.done, hend.i2cState, hrx, hnack⟩

end Sys2Proof.Machine
end

section
/-! The LED chain (60_exceptions R176 to R178): what a latch shows, what ends a pulse, the idle after a reset, and the display of a
frame, by induction over its waveform. -/
namespace Sys2Proof

/-- Even the longest low time within tolerance is too short to latch (00_scope R8). -/
theorem Params.Wf.tolerance_lt_latch {p : Params} (h : p.Wf) : bitPeriod + p.gapTol < p.latchCycles := by
  obtain ⟨-, -, -, -, -, -, -, -, hlatch, -⟩ := h
  exact hlatch

theorem Params.Wf.t0h_lt_t1h {p : Params} (h : p.Wf) : p.t0h < p.t1h := by
  obtain ⟨-, -, -, hwidth, -⟩ := h
  exact hwidth

end Sys2Proof

namespace Sys2Proof.Machine

/-! ## Bits and pixels (42_pixel_streamer R120) -/

/-- The next bit in transmission order goes in at the bottom. -/
theorem pixelOfBits_snoc (bits : List Bool) (b : Bool) :
    pixelOfBits (bits ++ [b]) = (pixelOfBits bits <<< 1) ||| (BitVec.ofBool b).setWidth 24 := by
  simp [pixelOfBits]

/-- Bit i of the pixel is the bit sent i places before the last one. -/
theorem pixelOfBits_getLsbD (bits : List Bool) :
    ∀ i < 24, (pixelOfBits bits).getLsbD i = bits.reverse.getD i false := by
  induction bits using List.reverseRecOn with
  | nil => simp [pixelOfBits]
  | append_singleton bits b ih =>
    intro i hi
    rw [pixelOfBits_snoc, List.reverse_concat]
    cases i with
    | zero => simp
    | succ j => simpa [hi, Nat.lt_of_succ_lt hi] using ih j (Nat.lt_of_succ_lt hi)

theorem pixelBitList_length (c : Pixel) : (pixelBitList c).length = pixelBits := by
  simp [pixelBitList]

/-- The 24 bits of a pixel give the pixel back. -/
theorem pixelOfBits_pixelBitList (c : Pixel) : pixelOfBits (pixelBitList c) = c := by
  refine BitVec.eq_of_getLsbD_eq fun i hi => ?_
  rw [pixelOfBits_getLsbD _ i hi]
  have hlen : i < (pixelBitList c).reverse.length := by rwa [List.length_reverse, pixelBitList_length]
  rw [List.getD_eq_getElem _ _ hlen]
  simp only [pixelBitList, List.getElem_reverse, List.getElem_map, List.getElem_range, List.length_map,
    List.length_range, pixelBits]
  congr 1
  omega

theorem flatten_pixelBitList_length (pixels : List Pixel) :
    (pixels.map pixelBitList).flatten.length = pixelBits * pixels.length := by
  induction pixels with
  | nil => rfl
  | cons c rest ih =>
    rw [List.map_cons, List.flatten_cons, List.length_append, ih, pixelBitList_length, List.length_cons, Nat.mul_succ,
      Nat.add_comm]

/-- The k-th group of 24 bits is that of the k-th pixel. -/
theorem pixel_slice {c : Pixel} (tail : List Bool) : ∀ {pixels : List Pixel} {k : Nat}, pixels[k]? = some c →
    (((pixels.map pixelBitList).flatten ++ tail).drop (pixelBits * k)).take pixelBits = pixelBitList c
  | [], _, h => nomatch h
  | first :: rest, 0, h => by
    cases h
    rw [Nat.mul_zero, List.drop_zero, List.map_cons, List.flatten_cons, List.append_assoc]
    exact List.take_left' (pixelBitList_length c)
  | first :: rest, k + 1, h => by
    rw [List.map_cons, List.flatten_cons, List.append_assoc, Nat.mul_succ, Nat.add_comm, ← List.drop_drop,
      List.drop_left' (pixelBitList_length first)]
    exact pixel_slice tail (by simpa using h)

/-! ## What a latch shows (60_exceptions R177) -/

namespace LedChain

section
variable {c : LedChain} {k : Nat} {old : Cell} (serial : Nat)

/-- After havoc every cell is a draw. -/
theorem latch_cell_of_bad (hb : c.bad = true) (ho : c.disp[k]? = some old) :
    (c.latch serial).disp[k]? = some (.drawn serial k) := by
  simp [latch, ho, hb]

/-- A complete pixel is shown. -/
theorem latch_cell_complete (hb : c.bad = false) (ho : c.disp[k]? = some old) (hk : k < c.pending.length / pixelBits) :
    (c.latch serial).disp[k]? =
      some (.shown (pixelOfBits ((c.pending.drop (pixelBits * k)).take pixelBits))) := by
  simp [latch, ho, hb, hk]

/-- A partial pixel leaves its cell a draw. -/
theorem latch_cell_partial (hb : c.bad = false) (ho : c.disp[k]? = some old) (hk : k = c.pending.length / pixelBits)
    (hp : c.pending.length % pixelBits ≠ 0) : (c.latch serial).disp[k]? = some (.drawn serial k) := by
  have hnot : ¬ k < c.pending.length / pixelBits := by omega
  simp only [latch, List.getElem?_mapIdx, ho, hb, Option.map_some, Bool.false_eq_true, if_false, if_neg hnot,
    if_pos (And.intro hk hp)]

/-- A cell that no pending bit reaches keeps what it shows. -/
theorem latch_cell_kept (hb : c.bad = false) (ho : c.disp[k]? = some old) (hk : ¬ k < c.pending.length / pixelBits)
    (hp : ¬ (k = c.pending.length / pixelBits ∧ c.pending.length % pixelBits ≠ 0)) :
    (c.latch serial).disp[k]? = some old := by
  simp only [latch, List.getElem?_mapIdx, ho, hb, Option.map_some, Bool.false_eq_true, if_false, if_neg hk, if_neg hp]

end

/-- With nothing pending, a latch of a healthy chain changes no cell. -/
theorem latch_disp_of_nothing_pending {c : LedChain} (serial : Nat) (hb : c.bad = false) (hp : c.pending = []) :
    (c.latch serial).disp = c.disp := by
  refine List.ext_getElem? fun k => ?_
  cases ho : c.disp[k]? with
  | none =>
    rw [List.getElem?_eq_none_iff] at ho ⊢
    rwa [latch_cells]
  | some old => exact latch_cell_kept serial hb ho (by simp [hp]) (by simp [hp])

end LedChain

/-- Settles O51: the pending bits make as many complete pixels as were sent, and a partial one where bits are left over. -/
theorem latchShowsPixelsInOrder : Obligations.LatchShowsPixelsInOrder := by
  intro c pixels partialBits serial k old hpend hpart hold
  have hlen : c.pending.length = pixelBits * pixels.length + partialBits.length := by
    rw [hpend, List.length_append, flatten_pixelBitList_length]
  have hcount : c.pending.length / pixelBits = pixels.length ∧ c.pending.length % pixelBits = partialBits.length := by
    rw [hlen, pixelBits]
    omega
  obtain ⟨hdiv, hmod⟩ := hcount
  refine ⟨rfl, rfl, fun hb => LedChain.latch_cell_of_bad serial hb hold, fun hb => ⟨fun pixel hk => ?_, fun hk hne => ?_,
    fun hk => ?_⟩⟩
  · have hlt : k < pixels.length := (List.getElem?_eq_some_iff.mp hk).1
    rw [LedChain.latch_cell_complete serial hb hold (hdiv ▸ hlt), hpend, pixel_slice _ hk, pixelOfBits_pixelBitList]
  · have hleft : partialBits.length ≠ 0 := mt List.length_eq_zero_iff.mp hne
    exact LedChain.latch_cell_partial serial hb hold (hdiv ▸ hk) (hmod ▸ hleft)
  · refine LedChain.latch_cell_kept serial hb hold ?_ ?_ <;> rw [hdiv]
    · omega
    · rw [hmod]
      rintro ⟨hk', hleft⟩
      rcases hk with hk | ⟨-, rfl⟩
      · omega
      · exact hleft rfl

/-- A latch of as many pixels as there are cells shows them in order. -/
theorem LedChain.latch_disp_of_pixels {c : LedChain} {pixels : List Pixel} (serial : Nat) (hb : c.bad = false)
    (hpend : c.pending = (pixels.map pixelBitList).flatten) (hlen : pixels.length = c.disp.length) :
    (c.latch serial).disp = pixels.map .shown := by
  refine List.ext_getElem (by rw [latch_cells, List.length_map, hlen]) fun k hk _ => ?_
  rw [latch_cells] at hk
  have hpixel := List.getElem?_eq_getElem (hlen ▸ hk)
  obtain ⟨-, -, -, shows⟩ := latchShowsPixelsInOrder c pixels [] serial k _ (by rw [hpend, List.append_nil]) (by decide)
    (List.getElem?_eq_getElem hk)
  rw [List.getElem_map]
  exact (List.getElem?_eq_some_iff.mp ((shows hb).1 _ hpixel)).2

/-! ## The end of a pulse (60_exceptions R176) -/

namespace LedChain

/-- A pulse of neither shape, or with too long a low time, is havoc when it is closed. -/
theorem closePulse_bad_of_offNominal {p : Params} {c : LedChain} (serial : Nat)
    (h : (c.high ≠ p.t0h ∧ c.high ≠ p.t1h) ∨ bitPeriod - c.high + p.gapTol < c.low) :
    (c.closePulse p serial).bad = true := by
  cases hbit : c.openBit p with
  | none => rw [closePulse_none hbit]
  | some b =>
    rcases h with ⟨h0, h1⟩ | hlow
    · have hnone : c.openBit p = none := by simp [openBit, bitOfHigh, h0, h1]
      rw [hnone] at hbit
      cases hbit
    · simp [closePulse, hbit, Nat.not_le.mpr hlow]

end LedChain

/-- Settles O53: the rising level closes the pulse as havoc, unless it makes the chain a draw, which is BAD too. -/
theorem offNominalPulseIsHavoc : Obligations.OffNominalPulseIsHavoc := by
  intro p c serial hhigh hlow _ h
  rcases LedChain.sample_high_cases p c serial with e | ⟨_, e⟩ <;> rw [e]
  · rw [LedChain.sampleHigh_close (Nat.ne_of_gt hhigh) (Nat.ne_of_gt hlow), LedChain.openPulse_bad]
    exact LedChain.closePulse_bad_of_offNominal serial h
  · rfl

/-! ## Low runs that reach LATCH_CYCLES (60_exceptions R176) -/

namespace LedChain

/-- A low run latches in the cycle in which it reaches LATCH_CYCLES. -/
theorem sampleAll_latch {p : Params} {c : LedChain} {n : Nat} (serial : Nat) (h : c.low + (n + 1) = p.latchCycles) :
    c.sampleAll p (List.replicate (n + 1) false) serial =
      ({ c with low := p.latchCycles } : LedChain).closeAndLatch p (serial + n) := by
  have hlast : c.low + n + 1 = p.latchCycles := h
  rw [List.replicate_succ', sampleAll_append, sampleAll_low p n c serial (by omega), List.length_replicate, sampleAll,
    sampleAll, sample_latch hlast, hlast]

theorem closeAndLatch_of_idle {p : Params} {c : LedChain} (serial : Nat) (h : c.high = 0) :
    c.closeAndLatch p serial = { c.latch serial with high := 0, cut := false, afterReset := false } := by
  simp only [closeAndLatch, h, if_true]

/-- A latch with a pulse of a bit's shape open shows that bit with the others. -/
theorem closeAndLatch_disp_of_nominal {p : Params} {c : LedChain} {b : Bool} (serial : Nat) (hp : p.t0h < p.t1h)
    (hc : c.cut = false) (hh : c.high = highCycles p b) (ho : c.high ≠ 0) :
    (c.closeAndLatch p serial).disp = ((c.receive b serial).latch serial).disp := by
  simp only [closeAndLatch, openBit_nominal hp hc hh, ho, if_false]

/-- A long low run with no pulse open latches the chain as it was. -/
theorem idle_latches {p : Params} {c : LedChain} {n : Nat} (serial : Nat) (hhigh : c.high = 0)
    (hlow : c.low + (n + 1) = p.latchCycles) :
    (c.sampleAll p (List.replicate (n + 1) false) serial).latched ∧
      (c.sampleAll p (List.replicate (n + 1) false) serial).disp = (c.latch (serial + n)).disp := by
  rw [sampleAll_latch serial hlow, closeAndLatch_of_idle (c := { c with low := p.latchCycles }) _ hhigh]
  exact ⟨⟨rfl, rfl, rfl, rfl⟩, rfl⟩

/-- A latched chain stays latched while DOUT is low, and shows what it showed. -/
theorem latched_sample_low {p : Params} {c : LedChain} (serial : Nat) (h : c.latched) :
    (c.sample p false serial).latched ∧ (c.sample p false serial).disp = c.disp := by
  obtain ⟨hbad, hpend, hhigh, hreset⟩ := h
  by_cases hl : c.low + 1 = p.latchCycles
  · obtain ⟨latched, shown⟩ := idle_latches (n := 0) serial hhigh hl
    exact ⟨latched, shown.trans (latch_disp_of_nothing_pending serial hbad hpend)⟩
  · rw [sample_low hl]
    exact ⟨⟨hbad, hpend, hhigh, hreset⟩, rfl⟩

theorem latched_sampleAll_low {p : Params} : ∀ (n : Nat) {c : LedChain} (serial : Nat), c.latched →
    (c.sampleAll p (List.replicate n false) serial).latched ∧
      (c.sampleAll p (List.replicate n false) serial).disp = c.disp
  | 0, _, _, h => ⟨h, rfl⟩
  | n + 1, _, serial, h => by
    obtain ⟨hone, sameDisp⟩ := latched_sample_low (p := p) serial h
    rw [List.replicate_succ, sampleAll, ← sameDisp]
    exact latched_sampleAll_low n (serial + 1) hone

theorem undetermined_cell {c : LedChain} {k : Nat} (serial : Nat) (hk : k < c.disp.length) :
    (c.undetermined serial).disp[k]? = some (.drawn serial k) := by
  simp [undetermined, hk]

/-- A pulse after a low run of no pulse that is too short to latch: the chain is a draw, or goes on as it was. -/
theorem pulse_after_short_idle {p : Params} {c : LedChain} {n : Nat} (serial : Nat) (hhigh : c.high = 0)
    (hlow : c.low + n < p.latchCycles) :
    c.sampleAll p (List.replicate n false ++ [true]) serial =
        (({ c with low := c.low + n } : LedChain).undetermined (serial + n)).openPulse ∨
      c.sampleAll p (List.replicate n false ++ [true]) serial = c.openPulse := by
  rw [sampleAll_append, sampleAll_low p n c serial hlow, List.length_replicate, sampleAll, sampleAll]
  rcases sample_high_cases p { c with low := c.low + n } (serial + n) with e | ⟨-, e⟩ <;> rw [e]
  · exact .inr (sampleHigh_open (c := { c with low := c.low + n }) hhigh)
  · exact .inl rfl

end LedChain

/-- Settles O56: the reset marks the chain; the long idle is a latch of what it was, and the short one ends in a draw or in the
first cycle of a pulse of the chain as it was. -/
theorem idleAfterReset : Obligations.IdleAfterReset := by
  refine ⟨fun s hr => ⟨_, step_reset hr, ?_, fun hh => ?_⟩, fun p c serial hp _ hhigh hlow hpend => ⟨?_, fun n hn => ?_⟩⟩
  · rw [endCycle_chain, State.chainNext_of_resetting hr, LedChain.markReset_afterReset]
  · rw [endCycle_chain, State.chainNext_of_resetting hr] at hh ⊢
    exact LedChain.markReset_low_of_idle hh
  · obtain ⟨n, hn⟩ : ∃ n, p.latchCycles = n + 1 := Nat.exists_eq_succ_of_ne_zero (Nat.ne_zero_of_lt hp.tolerance_lt_latch)
    obtain ⟨latched, shown⟩ := LedChain.idle_latches (p := p) (n := n) serial hhigh (by omega)
    rw [hn]
    refine ⟨serial + n, latched, fun hb => ?_, fun hb k hk => ?_⟩ <;> rw [shown]
    · exact LedChain.latch_disp_of_nothing_pending _ hb hpend
    · exact LedChain.latch_cell_of_bad _ hb (List.getElem?_eq_getElem hk)
  · refine ⟨serial + n, (LedChain.pulse_after_short_idle serial hhigh (by omega)).imp (fun e => ?_) id⟩
    rw [e]
    exact ⟨rfl, fun k hk => LedChain.undetermined_cell _ hk⟩

/-! ## A frame and its waveform (41_bit_encoder R116, 60_exceptions R178) -/

/-- Both pulse shapes rise and fall within one bit period (00_scope R8). -/
theorem highCycles_range {p : Params} (h : p.Wf) (b : Bool) : 1 ≤ highCycles p b ∧ highCycles p b < bitPeriod := by
  obtain ⟨-, h0, -, h01, -, h1l, -⟩ := h
  simp only [Params.t1l, bitPeriod] at h1l
  cases b <;> simp only [highCycles, bitPeriod, if_true, Bool.false_eq_true, if_false] <;> omega

namespace LedChain

/-- A healthy chain that has heard `high` and `low` cycles of its open pulse, with these bits pending. -/
def healthy (disp : List Cell) (bits : List Bool) (high low : Nat) : LedChain where
  high := high
  low := low
  cut := false
  pending := bits
  bad := false
  afterReset := false
  disp := disp

/-- The high run of a pulse goes on. -/
theorem sampleAll_high (p : Params) (disp : List Cell) (bits : List Bool) : ∀ (n : Nat) {high : Nat} (serial : Nat),
    high ≠ 0 → (healthy disp bits high 0).sampleAll p (List.replicate n true) serial = healthy disp bits (high + n) 0
  | 0, _, _, _ => rfl
  | n + 1, high, serial, hh => by
    rw [List.replicate_succ, sampleAll, sample_high rfl, sampleHigh_longer hh rfl, Nat.add_comm n 1, ← Nat.add_assoc]
    exact sampleAll_high p disp bits n (serial + 1) (Nat.succ_ne_zero high)

/-- A chain that the next high cycle puts into the first cycle of a pulse hears the whole pulse. -/
theorem sampleAll_pulse {p : Params} {disp : List Cell} {bits : List Bool} {c : LedChain} {h l : Nat} (serial : Nat)
    (rises : c.sample p true serial = healthy disp bits 1 0) (hh : 1 ≤ h) (hl : l < p.latchCycles) :
    c.sampleAll p (pulseLevels h l) serial = healthy disp bits h l := by
  have first : List.replicate h true = true :: List.replicate (h - 1) true := by
    rw [← List.replicate_succ, Nat.sub_add_cancel hh]
  have low : (0 : Nat) + l < p.latchCycles := by rwa [Nat.zero_add]
  rw [pulseLevels, sampleAll_append, first, sampleAll, rises, sampleAll_high _ _ _ _ _ Nat.one_ne_zero,
    Nat.add_sub_cancel' hh, sampleAll_low p l _ _ low]
  simp only [healthy, Nat.zero_add]

/-- The chain has received the bits since it was latched, the last one as an open pulse that stays within its tolerance for
`slack` more low cycles. -/
inductive Heard (p : Params) (disp : List Cell) : List Bool → Nat → LedChain → Prop
  | latched {c : LedChain} {slack : Nat} (h : c.latched) (hd : c.disp = disp) : Heard p disp [] slack c
  | pulse {bits : List Bool} {b : Bool} {low slack : Nat} (h0 : 0 < low)
      (hl : low + slack ≤ bitPeriod - highCycles p b + p.gapTol) :
      Heard p disp (bits ++ [b]) slack (healthy disp bits (highCycles p b) low)

namespace Heard

variable {p : Params} {disp : List Cell} {bits : List Bool} {slack : Nat} {c : LedChain}

theorem mono {less : Nat} (h : Heard p disp bits slack c) (hle : less ≤ slack) : Heard p disp bits less c := by
  cases h with
  | latched h hd => exact .latched h hd
  | pulse h0 hl => exact .pulse h0 (by omega)

/-- The next high cycle opens a pulse, with all bits heard so far pending. -/
theorem rises (hp : p.Wf) (h : Heard p disp bits slack c) (serial : Nat) :
    c.sample p true serial = healthy disp bits 1 0 := by
  cases h with
  | latched h hd =>
    obtain ⟨hbad, hpend, hhigh, hreset⟩ := h
    rw [sample_high hreset, sampleHigh_open hhigh, openPulse, hbad, hpend, hd]
    rfl
  | @pulse bits b _ _ h0 hl =>
    have hone : highCycles p b ≠ 0 := Nat.ne_of_gt (highCycles_range hp b).1
    rw [sample_high rfl, sampleHigh_close hone (Nat.ne_of_gt h0),
      closePulse_nominal hp.t0h_lt_t1h rfl rfl (Nat.le_of_add_right_le hl)]
    rfl

/-- The waveform of one bit. -/
theorem bit (hp : p.Wf) (h : Heard p disp bits slack c) (b : Bool) (serial : Nat) :
    Heard p disp (bits ++ [b]) p.gapTol
      (c.sampleAll p (pulseLevels (highCycles p b) (bitPeriod - highCycles p b)) serial) := by
  obtain ⟨hone, hfalls⟩ := highCycles_range hp b
  have hlatch := hp.tolerance_lt_latch
  rw [sampleAll_pulse serial (h.rises hp serial) hone (by omega)]
  exact .pulse (Nat.sub_pos_of_lt hfalls) (Nat.le_refl _)

/-- The waveform of at least one bit. -/
theorem bitRun (hp : p.Wf) : ∀ (rest : List Bool) {bits : List Bool} {slack : Nat} {c : LedChain} (b : Bool) (serial : Nat),
    Heard p disp bits slack c → Heard p disp (bits ++ b :: rest) p.gapTol
      (c.sampleAll p ((b :: rest).map fun b => pulseLevels (highCycles p b) (bitPeriod - highCycles p b)).flatten serial)
  | [], _, _, _, b, serial, h => by simpa using h.bit hp b serial
  | b' :: rest, bits, _, _, b, serial, h => by
    rw [List.map_cons, List.flatten_cons, sampleAll_append, List.append_cons]
    exact bitRun hp rest b' _ (h.bit hp b serial)

/-- Low cycles within the tolerance change nothing of what was heard. -/
theorem gap (hp : p.Wf) {n : Nat} (h : Heard p disp bits n c) (serial : Nat) :
    Heard p disp bits 0 (c.sampleAll p (List.replicate n false) serial) := by
  cases h with
  | latched h hd =>
    obtain ⟨stays, sameDisp⟩ := latched_sampleAll_low (p := p) n serial h
    exact .latched stays (sameDisp.trans hd)
  | @pulse bits b low _ h0 hl =>
    have hlatch := hp.tolerance_lt_latch
    have short : low + n < p.latchCycles := by omega
    rw [sampleAll_low p n _ _ short]
    exact .pulse (Nat.add_pos_left h0 n) hl

theorem pixel (hp : p.Wf) (h : Heard p disp bits slack c) (px : Pixel) {n : Nat} (hn : n ≤ p.gapTol) (serial : Nat) :
    Heard p disp (bits ++ pixelBitList px) 0 (c.sampleAll p (pixelLevels p px n) serial) := by
  obtain ⟨b, rest, hbits⟩ := List.exists_cons_of_length_pos (l := pixelBitList px) (by rw [pixelBitList_length]; decide)
  rw [pixelLevels, sampleAll_append, hbits]
  exact ((h.bitRun hp rest b serial).mono hn).gap hp _

/-- The waveform of a frame, by induction on its pixels. -/
theorem frame (hp : p.Wf) : ∀ {frame : List (Pixel × Nat)} {bits : List Bool} {c : LedChain} (serial : Nat),
    (∀ x ∈ frame, x.2 ≤ p.gapTol) → Heard p disp bits 0 c →
    Heard p disp (bits ++ ((frame.map Prod.fst).map pixelBitList).flatten) 0 (c.sampleAll p (frameLevels p frame) serial)
  | [], _, _, _, _, h => by simpa [frameLevels, sampleAll] using h
  | (px, n) :: rest, _, _, serial, hgap, h => by
    obtain ⟨hn, hrest⟩ := List.forall_mem_cons.mp hgap
    rw [frameLevels, sampleAll_append, List.map_cons, List.map_cons, List.flatten_cons, ← List.append_assoc]
    exact Heard.frame hp _ hrest (h.pixel hp px hn serial)

/-- At least LATCH_CYCLES low cycles show what was heard. -/
theorem shown (hp : p.Wf) {n : Nat} (h : Heard p disp bits slack c) (hn : p.latchCycles ≤ n) (serial : Nat) :
    ∃ latch, (c.sampleAll p (List.replicate n false) serial).disp = ((healthy disp bits 0 0).latch latch).disp := by
  cases h with
  | latched h hd =>
    refine ⟨serial, ?_⟩
    rw [(latched_sampleAll_low n serial h).2, hd, latch_disp_of_nothing_pending serial rfl rfl]
    rfl
  | @pulse bits b low _ h0 hl =>
    have hone : highCycles p b ≠ 0 := Nat.ne_of_gt (highCycles_range hp b).1
    have hlatch := hp.tolerance_lt_latch
    obtain ⟨m, hm⟩ : ∃ m, low + (m + 1) = p.latchCycles := ⟨p.latchCycles - low - 1, by omega⟩
    have split : n = m + 1 + (n - (m + 1)) := by omega
    refine ⟨serial + m, ?_⟩
    rw [split, List.replicate_add, sampleAll_append, sampleAll_latch serial hm, (latched_sampleAll_low _ _ ?_).2,
      closeAndLatch_disp_of_nominal (b := b) _ hp.t0h_lt_t1h rfl rfl hone]
    · rfl
    · exact ⟨rfl, rfl, rfl, rfl⟩

end Heard

end LedChain

/-- Settles O52: the chain hears the bits of the frame, the low run latches them, and the latch shows their pixels in order. -/
theorem frameIsDisplayed : Obligations.FrameIsDisplayed := by
  intro p c frame lowCycles serial hp hlatched hcells hlen hgap hlow
  have heard := LedChain.Heard.frame hp serial hgap (.latched hlatched rfl)
  obtain ⟨latch, hdisp⟩ := heard.shown hp hlow (serial + (frameLevels p frame).length)
  have sameCells : (frame.map Prod.fst).length = c.disp.length := by rw [List.length_map, hlen, hcells]
  rw [LedChain.sampleAll_append, hdisp]
  exact Eq.trans (LedChain.latch_disp_of_pixels latch rfl rfl sameCells) List.map_map

end Sys2Proof.Machine
end

section
/-! The touch controller (60_exceptions R179 to R182): a finished transaction moves the registers as `regAfter` says, and only the
end of a transaction moves them. -/
namespace Sys2Proof.Machine

/-! ## The registers after transactions (60_exceptions R180) -/

theorem regAfter_append (r : Byte) : ∀ (ops more : List DevOp) (v : Byte),
    regAfter r v (ops ++ more) = regAfter r (regAfter r v ops) more
  | [], _, _ => rfl
  | .write r' d took :: ops, more, v => regAfter_append r ops more (if r' = r ∧ took = true then d else v)
  | .read _ _ _ :: ops, more, v => regAfter_append r ops more v

namespace TouchController

/-- A finished write sets its register where it takes, and leaves every other one. -/
theorem reg_finish_write (dev : TouchController) (r' d : Byte) (took : Bool) (r : Byte) :
    (dev.finish (some (.write r' d took))).reg r = if r' = r ∧ took = true then d else dev.reg r := by
  cases took with
  | false => simp [finish, reg]
  | true =>
    by_cases hr : r' = r
    · simp [finish, reg, hr, readReg_writeReg_self]
    · have haddr : r.toNat ≠ r'.toNat := fun e => hr (BitVec.eq_of_toNat_eq e.symm)
      simp [finish, reg, hr, readReg_writeReg_other _ _ haddr]

/-- A finished transaction is recorded, and moves every register as the record says. -/
theorem finish_follows (dev : TouchController) (op : Option DevOp) (r : Byte) :
    (dev.finish op).log = dev.log ++ op.toList ∧ (dev.finish op).reg r = regAfter r (dev.reg r) op.toList := by
  cases op with
  | none => exact ⟨(List.append_nil _).symm, rfl⟩
  | some op =>
    cases op with
    | read r' x acked => exact ⟨rfl, rfl⟩
    | write r' d took => exact ⟨rfl, dev.reg_finish_write r' d took r⟩

/-- An event other than P only collects: the registers and the record of transactions stay. -/
theorem hear_of_ne_stop (dev : TouchController) {e : BusEvent} (take : Bool) (h : e ≠ .p) :
    (dev.hear e take).regs = dev.regs ∧ (dev.hear e take).log = dev.log := by
  cases e with
  | p => exact absurd rfl h
  | s | sr | w | r | n | x => exact ⟨rfl, rfl⟩

end TouchController

/-- Settles O48: an event other than P leaves REGS. -/
theorem onlyStopChangesRegisters : Obligations.OnlyStopChangesRegisters := by
  intro dev e take r h
  rw [TouchController.reg, (dev.hear_of_ne_stop take h).1, TouchController.reg]

/-- Settles O49: a P adds the finished transaction to the record and to what the registers follow; any other event adds
neither. -/
theorem registersFollowTheTransactions : Obligations.RegistersFollowTheTransactions := by
  intro dev e take h r
  by_cases he : e = .p
  · obtain ⟨hlog, hreg⟩ := dev.finish_follows (transactionOf dev.cur take) r
    rw [he, TouchController.hear, hlog, hreg, h r, regAfter_append]
  · rw [onlyStopChangesRegisters dev e take r he, (dev.hear_of_ne_stop take he).2, h r]

/-- Settles O47: the events from S to P are a write transaction to (r, d), and the registers follow it. -/
theorem writeTransactionTakesOrNot : Obligations.WriteTransactionTakesOrNot := by
  intro dev r d k1 k2 k3 take t1 t2 t3 t4 after hafter
  have hfinish : after =
      ({ dev with cur := [.s, .w 0x50 k1, .w r k2, .w d k3] } : TouchController).finish (some (.write r d take)) := hafter
  have hreg (r' : Byte) : after.reg r' = if r = r' ∧ take = true then d else dev.reg r' :=
    hfinish ▸ TouchController.reg_finish_write _ r d take r'
  refine ⟨?_, fun ht => ?_, fun r' hr => ?_, fun hd => ?_, hfinish ▸ rfl⟩ <;> rw [hreg]
  · exact ite_eq_or_eq ..
  · exact if_pos ⟨rfl, ht⟩
  · exact if_neg fun h => hr h.1.symm
  · rw [hd, ite_self]

/-! ## Four writes, two reads (60_exceptions R180, R181, 90_conflicts C7) -/

/-- ENV_READ_FRESH of transactions is, after some of them, ENV_READ_FRESH of the rest. -/
theorem envReadFresh_suffix (r : Byte) : ∀ {ops more : List DevOp} {v : Byte} {f : Freshness},
    envReadFresh r v f (ops ++ more) → ∃ f', envReadFresh r (regAfter r v ops) f' more
  | [], _, _, f, h => ⟨f, h⟩
  | .write r' d took :: ops, _, v, _, h => by
    by_cases hr : r' = r
    · simp only [List.cons_append, envReadFresh, if_pos hr] at h
      simpa [regAfter, hr] using envReadFresh_suffix r h
    · simp only [List.cons_append, envReadFresh, if_neg hr] at h
      simpa [regAfter, hr] using envReadFresh_suffix r h
  | .read r' x acked :: ops, _, _, _, h => by
    by_cases hr : r' = r
    · simp only [List.cons_append, envReadFresh, if_pos hr] at h
      exact envReadFresh_suffix (ops := ops) r h.2
    · simp only [List.cons_append, envReadFresh, if_neg hr] at h
      exact envReadFresh_suffix (ops := ops) r h

/-- The second read after a write is settled: acknowledged, it returns what the register holds (60_exceptions R181). -/
theorem second_read_settled {r d v x1 x2 : Byte} {f : Freshness} {took acked : Bool}
    (h : envReadFresh r v f [.write r d took, .read r x1 acked, .read r x2 true]) :
    x2 = regAfter r v [.write r d took] := by
  simp only [envReadFresh, if_true, Freshness.afterRead, Freshness.allows, forall_const, and_true] at h
  simpa [regAfter] using h.2

/-- Write transactions to (r, d). -/
def writesOf (r d : Byte) (takes : List Bool) : List DevOp := takes.map (.write r d)

theorem writesTo_append_writesOf (r d : Byte) (before : List DevOp) (takes : List Bool) :
    writesTo r (before ++ writesOf r d takes) = writesTo r before ++ takes.map fun took => (d, took) := by
  simp [writesTo, writesOf, List.filterMap_map]

/-- After writes of d of which one takes, or to a register that holds d already, the register holds d. -/
theorem regAfter_writesOf {r d : Byte} {takes : List Bool} {v : Byte} (h : true ∈ takes ∨ v = d) :
    regAfter r v (writesOf r d takes) = d := by
  induction takes generalizing v with
  | nil => exact h.resolve_left List.not_mem_nil
  | cons took takes ih =>
    rw [writesOf, List.map_cons, regAfter]
    refine ih ?_
    cases took with
    | true => exact .inr (if_pos ⟨rfl, rfl⟩)
    | false => simpa using h

/-- Settles O50: one of the four writes takes, so that the register holds d; the first read after the last write settles it, and
the second, acknowledged, returns it. -/
theorem fourWritesTwoReads : Obligations.FourWritesTwoReads := by
  intro r d v x1 x2 before t1 t2 t3 t4 acked htakes
  have taken : true ∈ [t1, t2, t3, t4] := htakes r d (writesTo r before) [t1, t2, t3, t4] []
    ((writesTo_append_writesOf r d before [t1, t2, t3, t4]).trans (List.append_nil _).symm) rfl
  have holds : regAfter r v (before ++ writesOf r d [t1, t2, t3, t4]) = d := by
    rw [regAfter_append]
    exact regAfter_writesOf (.inl taken)
  refine ⟨holds, fun hfresh => ?_⟩
  obtain ⟨f, lastWrite⟩ := envReadFresh_suffix r (ops := before ++ writesOf r d [t1, t2, t3])
    (more := [.write r d t4, .read r x1 acked, .read r x2 true]) (by simpa [writesOf] using hfresh)
  rw [second_read_settled lastWrite, ← regAfter_append]
  simpa [writesOf] using holds

end Sys2Proof.Machine
end

section
/-! Errors (60_exceptions R159 to R164): the places that raise one, their order, what an overrun leaves alone, and that nothing but a
narrow access stops the block. -/
namespace Sys2Proof.Machine

/-! ## The gate of a command (10_state R49) -/

theorem i2cGate_of_disabled {legal : I2cState → Bool} {s : State} (h : s.i2cEn = false) :
    i2cGate legal s = some .dis := by
  simp [i2cGate, h]

theorem i2cGate_eq_some {legal : I2cState → Bool} {s : State} {code : ErrCode} (h : i2cGate legal s = some code) :
    (code = .dis ∧ s.i2cEn = false) ∨ (code = .seq ∧ s.i2cEn = true) := by
  cases hen : s.i2cEn with
  | false =>
    rw [i2cGate_of_disabled hen] at h
    exact .inl ⟨(Option.some.inj h).symm, rfl⟩
  | true =>
    cases hl : legal s.i2cState with
    | true => rw [i2cGate_eq_none.mpr ⟨hen, hl⟩] at h; cases h
    | false =>
      simp only [i2cGate, hen, hl, Bool.not_true, Bool.not_false, Bool.false_eq_true, if_false, if_true] at h
      exact .inr ⟨(Option.some.inj h).symm, rfl⟩

/-- The commands of the I2C family have the gate of the I2C master. -/
theorem gateOf_of_family {i : Instr} (h : i.family = .i2c) : ∃ legal, gateOf i = i2cGate legal := by
  cases i with
  | emit0 | emit1 | wcolor | dlys | dlyl | dlyn => cases h
  | i2cStart | i2cRestart | i2cStop | i2cTx | i2cRxn | i2cWreg | i2cRreg => exact ⟨_, rfl⟩

/-- Only the gate of an I2C command can be shut: with DIS while the master is disabled, else with SEQ. -/
theorem gateOf_eq_some {i : Instr} {s : State} {code : ErrCode} (h : gateOf i s = some code) :
    i.family = .i2c ∧ ((code = .dis ∧ s.i2cEn = false) ∨ (code = .seq ∧ s.i2cEn = true)) := by
  cases i with
  | emit0 | emit1 | wcolor | dlys | dlyl | dlyn => cases h
  | i2cStart | i2cRestart | i2cStop | i2cTx | i2cRxn | i2cWreg | i2cRreg => exact ⟨rfl, i2cGate_eq_some h⟩

/-! ## Overruns (60_exceptions R163) -/

/-- Every word written to CMD while BUSY = 1 is an overrun. -/
theorem accessEffect_cmd_busy {now : State} (s : State) (w : Word) (hb : now.busy = true) :
    accessEffect now (.write 2 w) s = s.raise .ovr := by
  cases hd : decode w with
  | command i => rw [accessEffect_command _ _ _ hd, acceptCommand_busy _ _ _ hb]
  | illegal why => rw [accessEffect_illegal _ _ _ hd, acceptCommand_busy _ _ _ hb]

theorem exec_busy (i : Instr) {s : State} (hs : s.seqOk = true) (hb : s.busy = true) :
    exec i s = .next (s.advance.raise .ovr) := by
  rw [exec_eq_onEdge, onEdge_of_seqOk _ hs, acceptCommand_busy _ _ _ hb]

/-- Settles O18: while BUSY = 1 each of the three writes only raises OVR on the advance, which is the whole edge without an
access. -/
theorem overrunChangesOnlyTheErrorRecord : Obligations.OverrunChangesOnlyTheErrorRecord := by
  intro s hs hb
  refine ⟨fun i => exec_busy i hs hb, fun hr hp => ?_, fun k v hr hp hk => ?_⟩
  · have hn : s.resetting = false := by simp [State.resetting, hr, hp]
    rw [blockEdge_of_seqOk hn (by simp [hp]) hs, hp]
    rfl
  · have hn : s.resetting = false := by
      refine not_resetting_of_write hr hp ?_
      rcases hk with rfl | rfl | ⟨-, hv⟩
      exacts [.inl (by decide), .inl (by decide), .inr hv]
    rw [blockEdge_of_seqOk hn (by simp [hp]) hs, hp]
    congr 1
    rcases hk with rfl | rfl | ⟨rfl, -⟩
    · exact accessEffect_cmd_busy _ v hb
    · exact writeBitrate_busy _ v hb
    · exact writeCtrl_busy _ v hb

/-- Settles O19: BUSY is looked at first, then the decoding, then the gate, which looks at I2C_EN first. -/
theorem errorPriority : Obligations.ErrorPriority := by
  intro w s hs
  refine ⟨fun hb => ?_, fun hb ⟨why, hd⟩ => runWord_illegal hd ⟨hs, hb⟩, fun hb i hd hf hen => ?_⟩
  · cases hd : decode w with
    | command i => rw [runWord, hd]; exact exec_busy i hs hb
    | illegal why => rw [runWord, hd]; exact (onEdge_of_seqOk _ hs).trans (congrArg _ (acceptCommand_busy _ _ _ hb))
  · obtain ⟨legal, hgate⟩ := gateOf_of_family hf
    rw [runWord, hd]
    exact exec_of_ready_rejected ⟨hs, hb⟩ (by rw [hgate]; exact i2cGate_of_disabled hen)

/-! ## Where errors are recorded (60_exceptions R160) -/

theorem writeStatus_err (v : Word) (now s : State) : (writeStatus v now s).err = s.err := by
  unfold writeStatus
  split <;> rfl

/-- While BUSY = 0 only a CMD write touches the error record. -/
theorem AccessResult.err_of_ready {now s u : State} {p : PortAccess} (h : AccessResult now s p u) (hb : now.busy = false)
    (hp : ∀ w, p ≠ .write 2 w) : u.err = s.err := by
  cases h with
  | unchanged | cleared | bitrate | enabled | disabled | abandoned => rfl
  | overrun _ hbusy => rw [hb] at hbusy; cases hbusy
  | rejected w | started w => exact absurd rfl (hp w)

/-- The error a CMD write records while BUSY = 0: ILL for an ILLEGAL word, and the gate's for a command. -/
theorem cmd_error_of_ready {now s : State} {w : Word} (hb : now.busy = false) (he : s.err = false)
    (h : (accessEffect now (.write 2 w) s).err = true) :
    ((accessEffect now (.write 2 w) s).errCode = .ill ∧ ∃ why, decode w = .illegal why) ∨
      ∃ i, decode w = .command i ∧ gateOf i s.clearDone = some (accessEffect now (.write 2 w) s).errCode := by
  cases hd : decode w with
  | illegal why =>
    rw [accessEffect_illegal _ _ _ hd, acceptCommand_rejected (code := .ill) _ hb rfl]
    exact .inl ⟨by simp [he], why, rfl⟩
  | command i =>
    rw [accessEffect_command _ _ _ hd] at h ⊢
    refine .inr ⟨i, rfl, ?_⟩
    cases hg : gateOf i s.clearDone with
    | some code => rw [acceptCommand_rejected _ hb hg]; simp [he]
    | none =>
      rw [acceptCommand_started _ hb hg] at h
      simp [he] at h

/-- The accesses that can record an error; a CTRL write with bit 1 = 1 resets the block before it gets here. -/
theorem error_places {now s : State} {p : PortAccess} (he : s.err = false) (h : (accessEffect now p s).err = true) :
    (∃ w, p = .write 2 w) ∨ (∃ v, p = .write 4 v) ∨ ∃ v, p = .write 0 v := by
  have kept (hk : (accessEffect now p s).err = s.err) : False := by
    rw [hk, he] at h
    cases h
  cases p with
  | none | read | narrow => exact (kept rfl).elim
  | write k v =>
    rcases wordIndex_cases k with rfl | rfl | rfl | rfl | ignored
    · exact .inr (.inr ⟨v, rfl⟩)
    · exact (kept (writeStatus_err v now s)).elim
    · exact .inl ⟨v, rfl⟩
    · exact .inr (.inl ⟨v, rfl⟩)
    · rcases ignored with rfl | rfl | rfl | rfl <;> exact (kept rfl).elim

/-- An error that an access records while BUSY = 1 is OVR. -/
theorem error_code_of_busy {now s : State} {p : PortAccess} (hb : now.busy = true) (he : s.err = false)
    (h : (accessEffect now p s).err = true) : (accessEffect now p s).errCode = .ovr := by
  rcases accessEffect_busy hb p s with e | e | ⟨e, -⟩ <;> rw [e] at h ⊢
  · rw [he] at h; cases h
  · simp [he]
  · rw [State.clearDone_err, he] at h; cases h

/-- Settles O17: a reset and the advance record no error, so that it is the access's: an overrun while BUSY = 1, and while
BUSY = 0 the error a CMD write is rejected with. -/
theorem errorsOnlyWhereListed : Obligations.ErrorsOnlyWhereListed := by
  intro s t hstep he ht
  rcases step_next_cases hstep with ⟨-, rfl⟩ | ⟨hr, -, hs, rfl⟩
  · simp at ht
  rw [endCycle_err] at ht
  rw [endCycle_errCode]
  have hadvance : s.advance.err = false := (advance_result hs).keeps_error.1.trans he
  cases hb : s.busy with
  | true =>
    refine .inl ⟨rfl, error_code_of_busy hb hadvance ht, ?_⟩
    refine (error_places hadvance ht).imp_right (Or.imp_right fun ⟨v, hp⟩ => ⟨v, hp, ?_⟩)
    exact Bool.eq_false_iff.mpr fun hv => Bool.eq_false_iff.mp hr ((resetting_iff s).mpr (.inr ⟨v, hp, hv⟩))
  | false =>
    refine .inr ⟨rfl, ?_⟩
    by_cases hp : ∃ w, s.port = .write 2 w
    · obtain ⟨w, hp⟩ := hp
      have hen : s.advance.clearDone.i2cEn = s.i2cEn := by rw [clearDone_advance ⟨hs, hb⟩]; rfl
      rw [hp] at ht ⊢
      refine ⟨w, rfl, (cmd_error_of_ready hb hadvance ht).imp_right fun ⟨i, hd, hg⟩ => ⟨i, hd, ?_⟩⟩
      exact hen ▸ gateOf_eq_some hg
    · have kept := (accessEffect_result s s.advance s.port).err_of_ready hb fun w e => hp ⟨w, e⟩
      rw [kept, hadvance] at ht
      cases ht

/-! ## No condition stops the block (60_exceptions R159) -/

/-- Settles O30: a reset and an access the block defines have a next state, the latter because the invariant holds the sequencer
in its ranges. -/
theorem onlyNarrowAccessesStop : Obligations.OnlyNarrowAccessesStop := by
  intro s h
  cases hr : s.resetting with
  | true => exact .inl ⟨_, step_reset hr⟩
  | false =>
    by_cases hn : s.port = .narrow
    · exact .inr ⟨step_narrow hr hn, rfl, hn⟩
    · exact .inl ⟨_, step_of_seqOk hr hn h.seq⟩

end Sys2Proof.Machine
end

section
/-! A reset in mid-run and the LED chain (70_reset_and_hazards R191): which resets cut the pulse on DOUT short, what becomes of
such a pulse, and what the chain keeps of the others. -/
namespace Sys2Proof.Machine

/-! ## The edge of a reset -/

/-- A reset ends the command, so that DOUT is low from then on (10_state R54). -/
theorem dout_of_reset (s : State) : (endCycle s s.resetBlock).dout = false :=
  dout_of_mode_ne_led (by simp)

/-- What a reset does to the chain: it samples DOUT, an open pulse may be cut short, and the reset is remembered. -/
theorem chain_of_reset {s : State} (hr : s.resetting = true) :
    (endCycle s s.resetBlock).chain = s.chainSampled.markReset :=
  State.chainNext_of_resetting hr

/-- At a reset of an LED command the last high cycle of the bit decides: one before it cuts the pulse short, it and every later
one do not (90_conflicts C13). -/
theorem cutsPulse_iff {s : State} (hm : s.mode = .led) (hr : s.resetting = true) :
    s.cutsPulse = true ↔ s.ph < highCycles Config.params (s.sr.getLsbD 23) - 1 := by
  simp [State.cutsPulse, hm, hr]

/-- DOUT is still high in a cycle in which a reset cuts the pulse short. -/
theorem dout_of_cutsPulse {s : State} (h : s.cutsPulse = true) : s.dout = true := by
  simp only [State.cutsPulse, Bool.and_eq_true, decide_eq_true_eq] at h
  obtain ⟨⟨-, hmode⟩, early⟩ := h
  have high : s.ph < highCycles Config.params (s.sr.getLsbD 23) := by omega
  rw [State.dout, State.doutWith, hmode, decide_eq_true high, Bool.and_self]

/-- A reset that cuts a pulse short leaves it open and marked: the chain has just sampled one of its high cycles. -/
theorem chain_of_cutting_reset {s : State} (h : s.cutsPulse = true) :
    0 < s.chainSampled.markReset.high ∧ s.chainSampled.markReset.cut = true := by
  constructor
  · rw [LedChain.markReset_high, State.chainSampled_high, dout_of_cutsPulse h]
    exact (LedChain.sample_high_opens _ _ _).1
  · rw [LedChain.markReset_cut, State.chainSampled_cut, h, Bool.or_true]

/-! ## A pulse that was cut short, and one that was not (60_exceptions R176) -/

namespace LedChain

variable {p : Params} {c : LedChain} (serial : Nat)

/-- The next rising level takes an open pulse with no bit for havoc, unless it makes the chain a draw, which is BAD too. -/
theorem sample_high_bad_of_openBit_none (ho : c.high ≠ 0) (hl : c.low ≠ 0) (hbit : c.openBit p = none) :
    (c.sample p true serial).bad = true := by
  rcases sample_high_cases p c serial with e | ⟨-, e⟩ <;> rw [e]
  · rw [sampleHigh_close ho hl, openPulse_bad, closePulse_none hbit]
  · rfl

/-- A latch with a pulse open that has no bit is one of a BAD chain. -/
theorem closeAndLatch_disp_of_openBit_none (ho : c.high ≠ 0) (hbit : c.openBit p = none) :
    (c.closeAndLatch p serial).disp = (latch { c with bad := true } serial).disp := by
  simp only [closeAndLatch, hbit, ho, if_false]

/-- A latch with a cut pulse open shows a draw in every cell. -/
theorem sample_latch_cell_of_cut {k : Nat} (ho : c.high ≠ 0) (hc : c.cut = true) (hl : c.low + 1 = p.latchCycles)
    (hk : k < c.disp.length) : (c.sample p false serial).disp[k]? = some (.drawn serial k) := by
  rw [sample_latch hl, closeAndLatch_disp_of_openBit_none (c := { c with low := c.low + 1 }) serial ho (openBit_cut hc)]
  exact latch_cell_of_bad serial rfl (List.getElem?_eq_getElem hk)

/-- A healthy chain receives the bit itself; only while BAD are the received bits draws. -/
theorem receive_of_healthy {b : Bool} (hb : c.bad = false) :
    c.receive b serial = { c with pending := c.pending ++ [b] } := by
  simp [receive, hb]

/-- A low run that reaches LATCH_CYCLES reads the open pulse of a bit's shape and latches it with what is pending. -/
theorem nominal_pulse_latches {b : Bool} {n : Nat} (hp : p.Wf) (hh : c.high = highCycles p b) (hc : c.cut = false)
    (hlow : c.low + (n + 1) = p.latchCycles) :
    (c.sampleAll p (List.replicate (n + 1) false) serial).latched ∧
      (c.sampleAll p (List.replicate (n + 1) false) serial).disp = ((c.receive b (serial + n)).latch (serial + n)).disp := by
  have ho : c.high ≠ 0 := hh ▸ Nat.ne_of_gt (highCycles_range hp b).1
  rw [sampleAll_latch serial hlow]
  exact ⟨⟨rfl, rfl, rfl, rfl⟩,
    closeAndLatch_disp_of_nominal (c := { c with low := p.latchCycles }) _ hp.t0h_lt_t1h hc hh ho⟩

end LedChain

/-! ## The statements -/

/-- Settles O54: before the last high cycle of the bit the chain samples a high level and the reset marks the pulse, which then
has no bit; from that cycle on the reset marks nothing. -/
theorem resetCutsThePulse : Obligations.ResetCutsThePulse := by
  refine ⟨fun s hm hr => ⟨_, step_reset hr, dout_of_reset s, ?_⟩, fun p c serial hhigh hc => ?_⟩
  · rw [chain_of_reset hr]
    refine ⟨fun early => chain_of_cutting_reset ((cutsPulse_iff hm hr).mpr early), fun late => ?_⟩
    have uncut : s.cutsPulse = false := Bool.eq_false_iff.mpr fun h => Nat.not_lt.mpr late ((cutsPulse_iff hm hr).mp h)
    rw [State.chainSampled_of_not_cut uncut]
  · have ho : c.high ≠ 0 := Nat.ne_of_gt hhigh
    refine ⟨fun hl => ?_, fun hl _ => ?_, fun hl k hk => LedChain.sample_latch_cell_of_cut serial ho hc hl hk⟩
    · rw [LedChain.sample_low (Nat.ne_of_lt hl)]
      exact ⟨rfl, hc⟩
    · exact LedChain.sample_high_bad_of_openBit_none serial ho (Nat.ne_of_gt hl) (LedChain.openBit_cut hc)

/-- Settles O55: the reset's marks touch neither what is pending nor what is shown, and they let the low run of an open pulse go
on; the low cycle that completes LATCH_CYCLES reads the pulse and latches. -/
theorem resetKeepsWhatTheChainReceived : Obligations.ResetKeepsWhatTheChainReceived := by
  refine ⟨fun s hr => ⟨_, step_reset hr, ?_⟩, fun p c b n serial hp hh hc hb hlow => ?_⟩
  · rw [chain_of_reset hr]
    exact ⟨rfl, rfl, rfl, rfl, fun ho => LedChain.markReset_low_of_open (Nat.ne_of_gt ho)⟩
  · rw [← LedChain.receive_of_healthy (serial + n) hb]
    exact LedChain.nominal_pulse_latches serial hp hh hc hlow

end Sys2Proof.Machine
end
